-- ==== Sys2Proof/Word.lean ====
section
/-! DEFINITION. The word types of the MT19937 engine (00_scope.md R6): everything on a port and
everything in the state vector is an unsigned 32-bit word; bytes occur only in the UUID buffer
(20_memory.md R43). The arithmetic is `BitVec`'s own, which is modular (40_arithmetic.md R90). -/

namespace Sys2Proof

/-- A `u32`: bit 31 is the most significant bit (00_scope.md R6). -/
abbrev Word := BitVec 32

/-- A `u8`: one byte of the 16-byte UUID buffer (43_output.md R165). -/
abbrev Byte := BitVec 8

end Sys2Proof
end

