-- ==== Sys2Proof/Machine/Arith.lean ====
section
/-! DEFINITION. The algorithm's constants (00_scope.md R4) and the shared functions of
40_arithmetic.md. Everything is a total function on 32-bit words; nothing can fail
(60_exceptions.md R194). -/

namespace Sys2Proof.Machine

/-- `INIT_MULT` (00_scope.md R4). -/
def initMult : Word := 1812433253#32
/-- `ARRAY_BASE_SEED` (00_scope.md R4). -/
def arrayBaseSeed : Word := 19650218#32
/-- `ARRAY_MULT1` (00_scope.md R4). -/
def arrayMult1 : Word := 1664525#32
/-- `ARRAY_MULT2` (00_scope.md R4). -/
def arrayMult2 : Word := 1566083941#32
/-- `ARRAY_FINAL_W0` (00_scope.md R4). -/
def arrayFinalW0 : Word := 0x80000000#32
/-- `UPPER_MASK` (00_scope.md R4). -/
def upperMask : Word := 0x80000000#32
/-- `LOWER_MASK` (00_scope.md R4). -/
def lowerMask : Word := 0x7FFFFFFF#32
/-- `MATRIX_A` (00_scope.md R4). -/
def matrixA : Word := 0x9908B0DF#32
/-- `TEMPER_B` (00_scope.md R4). -/
def temperB : Word := 0x9D2C5680#32
/-- `TEMPER_C` (00_scope.md R4). -/
def temperC : Word := 0xEFC60000#32

/-- `Mix30(x) = x ^ (x >> 30)` (40_arithmetic.md R98). -/
def mix30 (x : Word) : Word := x ^^^ (x >>> 30)

/-- `Combine(u, l)`: bit 31 of `u`, bits 30:0 of `l` (40_arithmetic.md R100). -/
def combine (u l : Word) : Word := (u &&& upperMask) ||| (l &&& lowerMask)

/-- `Magic(y)`: `MATRIX_A` if bit 0 of `y` is 1, else 0 (40_arithmetic.md R101). -/
def magic (y : Word) : Word := if y.getLsbD 0 then matrixA else 0#32

/-- `TwistWord(u, l, s) = s ^ (Combine(u, l) >> 1) ^ Magic(Combine(u, l))`
(40_arithmetic.md R102). -/
def twistWord (u l s : Word) : Word := s ^^^ (combine u l >>> 1) ^^^ magic (combine u l)

/-- The 16-bit-limb form of the product, one way an implementer may compute it; the meanings use
the product itself (40_arithmetic.md R93, R94). -/
def mulLimb (a b : Word) : Word :=
  let ah := a.toNat / 2 ^ 16
  let al := a.toNat % 2 ^ 16
  let bh := b.toNat / 2 ^ 16
  let bl := b.toNat % 2 ^ 16
  BitVec.ofNat 32 (((ah * bl + al * bh) % 2 ^ 16) * 2 ^ 16 + al * bl)

end Sys2Proof.Machine
end

