-- ==== Sys2Proof/Config.lean ====
section
/-! DEFINITION. What the spec leaves open: the parameters marked OPEN (00_scope.md R5,
92_eei_decisions.md) and the free values. Each is opaque, so that whatever is proved holds for
every choice. -/

namespace Sys2Proof

/-- The two byte orders of the UUID buffer (43_output.md R165). -/
inductive ByteOrder where
  | big
  | little
  deriving DecidableEq, Repr, Inhabited

/-- The two cases of the UUID's hexadecimal digits (43_output.md R166). -/
inductive HexCase where
  | lower
  | upper
  deriving DecidableEq, Repr, Inhabited

/-- `AUTO_SEED_WORDS` less its minimum 4: any of 0 .. 2^24 - 5
(00_scope.md R5; DESIGN CHOICE, log entry 4). -/
opaque Config.autoSeedExtra : Fin 16777212

/-- `AUTO_SEED_WORDS` = E, OPEN with 4 ≤ E ≤ `KEY_LEN_MAX`
(00_scope.md R5; DESIGN CHOICE, log entry 4). -/
def Config.autoSeedWords : Nat := 4 + Config.autoSeedExtra.val

/-- FREE VALUE: the words the environment delivers on ENT beyond those listed in the state, an
unconstrained draw (41_seeding.md R118; DESIGN CHOICE, log entry 5). -/
opaque Config.entropyWord : Nat → Word

/-- FREE VALUE: the unspecified content of `W[k]` after reset number n, `resetWord n k`
(10_state.md R29; DESIGN CHOICE, log entry 3). -/
opaque Config.resetWord : Nat → Nat → Word

/-- FREE VALUE: how many entropy words a SEEDE had taken when reset number n abandoned it
(70_reset_and_hazards.md R220; DESIGN CHOICE, log entry 7). -/
opaque Config.abandonedTaken : Nat → Nat

/-- `UUID_BYTE_ORDER`, OPEN (43_output.md R165; DESIGN CHOICE, log entry 8). -/
opaque Config.uuidByteOrder : ByteOrder

/-- `UUID_HEX_CASE`, OPEN, used by the host only (43_output.md R166; DESIGN CHOICE, log entry 9). -/
opaque Config.uuidHexCase : HexCase

end Sys2Proof
end

