-- ==== Sys2Proof/Syntax.lean ====
section
/-! DEFINITION. Request packets and the seven commands (30_encoding.md R61, R68). -/

namespace Sys2Proof

/-- A request packet: a finite ordered list of n ≥ 1 words, the command word `P[0]` and the operand
words `P[1..n-1]` (30_encoding.md R61). The type itself makes n at least 1
(DESIGN CHOICE, log entry 1). -/
structure Packet where
  cmd : Word
  operands : List Word
  deriving DecidableEq, Repr

/-- The seven commands, one for each row of the opcode map (30_encoding.md R68). -/
inductive Instr where
  /-- Scalar seed, any 32-bit value (41_seeding.md R110). -/
  | seeds (seed : Word)
  /-- Array seed with the keys `Key(0), ..., Key(L-1)`; no key at all is the invalid argument
  (41_seeding.md R112). -/
  | seeda (keys : List Word)
  /-- Auto-seed from the entropy port (41_seeding.md R118). -/
  | seede
  /-- One tempered draw (43_output.md R162). -/
  | next32
  /-- The numerator of the 32-bit real (43_output.md R163). -/
  | nextr32
  /-- The numerator of the 53-bit real (43_output.md R164). -/
  | nextr53
  /-- The 16 bytes of a version-4 UUID (43_output.md R165). -/
  | nextuuid
  deriving DecidableEq, Repr

end Sys2Proof
end

