-- ==== Sys2Proof/Machine/State.lean ====
section
/-! DEFINITION. The state of one engine and what stands at its four ports, as plain data
(10_state.md R20, R29; 30_encoding.md R60). -/

namespace Sys2Proof.Machine

/-- The state vector `W[0..623]` (10_state.md R21). -/
abbrev Words := Vector Word 624

/-- What the host does on REQ and RST (30_encoding.md R60; 70_reset_and_hazards.md R220). -/
inductive HostEvent where
  /-- A request packet on REQ. -/
  | packet (p : Packet)
  /-- A reset request on RST, while no command executes or while a SEEDE waits for entropy. -/
  | reset
  /-- A request packet during whose execution reset is requested: it is abandoned unanswered. -/
  | resetDuring (p : Packet)
  deriving DecidableEq, Repr

/-- The state of one engine (DEDUCED, log entry 12): the spec's three elements (10_state.md R20),
then the four ports, then the model's two counters for free values. -/
structure State where
  /-- The state vector (10_state.md R21). -/
  W : Words
  /-- How far the current block is drawn, in [0, 624] (10_state.md R22). -/
  index : Fin 625
  /-- A seeding has completed since reset (10_state.md R23). -/
  seeded : Bool
  /-- REQ and RST: what the host does, in the order the engine meets it
  (DESIGN CHOICE, log entry 1). -/
  req : List HostEvent
  /-- RSP: the response packets emitted, oldest first
  (30_encoding.md R70; DESIGN CHOICE, log entry 1). -/
  rsp : List (List Word)
  /-- ENT: entropy words offered and not yet taken, first to be taken first (30_encoding.md R73). -/
  ent : List Word
  /-- Whether the environment goes on delivering words after those in `ent`
  (70_reset_and_hazards.md R229; DESIGN CHOICE, log entry 5). -/
  entDelivers : Bool
  /-- The words a SEEDE in progress has taken so far while it waits for more
  (70_reset_and_hazards.md R229; DEDUCED, log entry 6). -/
  waiting : Option (List Word)
  /-- The model's own: how many free entropy words have been taken (DESIGN CHOICE, log entry 5). -/
  entDrawn : Nat
  /-- The model's own: how many resets have been made (DESIGN CHOICE, log entry 3). -/
  resets : Nat
  deriving DecidableEq, Repr

/-- The engine never faults: every condition it reports is an error response, and a SEEDE without
entropy is "stuck, not faulted" (60_exceptions.md R190, R194; 70_reset_and_hazards.md R229). No
constructor, so nobody raises one. -/
inductive Fault
  deriving DecidableEq, Repr

/-- Why a step has no meaning. -/
inductive Refusal where
  /-- Raised by an arm of `exec` whose instruction has no meaning yet; safe, since it stops. No arm
  raises it: all seven instructions have their meaning. -/
  | notModelled (mnemonic : String)
  deriving DecidableEq, Repr

/-- The unspecified content of `W` after reset number `n`: free values, one for each word
(10_state.md R29; DESIGN CHOICE, log entry 3). -/
@[irreducible] def unspecifiedWords (n : Nat) : Words :=
  ⟨⟨(List.range 624).map (Config.resetWord n)⟩, by simp⟩

/-- The engine right after reset (10_state.md R29; 70_reset_and_hazards.md R220): unseeded, index
624, `W` unspecified, nothing sent, nothing answered, no command in progress. -/
def State.reset : State where
  W := unspecifiedWords 0
  index := 624
  seeded := false
  req := []
  rsp := []
  ent := []
  entDelivers := true
  waiting := none
  entDrawn := 0
  resets := 1

end Sys2Proof.Machine
end

