-- ==== Sys2Proof/Machine/Ops.lean ====
section
/-! DEFINITION. The operations the meanings share: access to the state vector, the counted loop,
responses, taking an error condition, completing a seeding, and reset. -/

namespace Sys2Proof.Machine

/-- `W[k]` (20_memory.md R41). Every index the spec forms is at most 623; the value beyond is
never used (DESIGN CHOICE, log entry 11). -/
def readW (w : Words) (k : Nat) : Word := if h : k < 624 then w[k] else 0#32

/-- `W[k] <- v` (20_memory.md R41). Every index the spec forms is at most 623; a write beyond
would be dropped (DESIGN CHOICE, log entry 11). -/
def writeW (w : Words) (k : Nat) (v : Word) : Words := if h : k < 624 then w.set k v h else w

/-- `for n in a..a+count`: the body for a, a+1, ..., a+count-1 in that order
(00_scope.md R8). -/
def forRange {σ : Type} (a : Nat) : Nat → (Nat → σ → σ) → σ → σ
  | 0, _, s => s
  | count + 1, body, s => forRange (a + 1) count body (body a s)

/-- The four status codes' names (30_encoding.md R71). -/
inductive Status where
  | ok
  | invalidArgument
  | illegalCommand
  | notSeeded
  deriving DecidableEq, Repr

/-- The status word: the code in bits 7:0, bits 31:8 zero (30_encoding.md R70, R71). -/
def statusWord : Status → Word
  | .ok => 0x00#32
  | .invalidArgument => 0x01#32
  | .illegalCommand => 0x02#32
  | .notSeeded => 0x03#32

/-- Emit one response packet: the status word, then the data words (30_encoding.md R70). -/
def respond (st : Status) (data : List Word) (s : State) : State :=
  { s with rsp := s.rsp ++ [statusWord st :: data] }

/-- TAKING AN ERROR CONDITION (60_exceptions.md R197): no state element changes, the response is
the status word alone, no entropy word is consumed, the engine is ready for the next packet.
Nothing is saved, so there is nothing to return from (60_exceptions.md R198). -/
def raise (st : Status) (s : State) : State := respond st [] s

/-- Completing a seeding: all of `W` written, `index <- 624`, `seeded <- 1`
(10_state.md R26; 41_seeding.md R110, R112, R118). -/
def commitSeed (w : Words) (s : State) : State :=
  { s with W := w, index := 624, seeded := true }

/-- The reset request on RST (70_reset_and_hazards.md R220): `seeded = 0`, `index = 624`, `W`
unspecified, a command in progress abandoned with no response. What stands on the other ports is
outside the engine and stays. -/
def applyReset (s : State) : State :=
  { s with
    W := unspecifiedWords s.resets
    index := 624
    seeded := false
    waiting := none
    resets := s.resets + 1 }

end Sys2Proof.Machine
end

