-- ==== Sys2Proof/Machine/Operands.lean ====
section
/-! DEFINITION. The operand forms: the key operand `Key(j)` (20_memory.md R42) and the words SEEDE
takes from the entropy port (30_encoding.md R73). The scalar seed is the operand word itself
(30_encoding.md R67). -/

namespace Sys2Proof.Machine

/-- `Key(j)`, 0 ≤ j < L (20_memory.md R42). Every j the array path forms is below L; the value
beyond is never used (DESIGN CHOICE, log entry 11). -/
def keyAt (keys : List Word) (j : Nat) : Word := keys.getD j 0#32

/-- What a host sends for an integer `v` of any size or sign: `v mod 2^32`
(30_encoding.md R67). -/
def hostWord (v : Int) : Word := BitVec.ofInt 32 v

/-- The words a SEEDE in progress has taken so far; none if it only begins. -/
def takenSoFar (s : State) : List Word := s.waiting.getD []

/-- The t-th word the environment delivers from now on: those offered on ENT first, then words
nothing is known about (30_encoding.md R73; 41_seeding.md R118; DESIGN CHOICE, log entry 5). -/
def nextEntropy (s : State) (t : Nat) : Word :=
  s.ent.getD t (Config.entropyWord (s.entDrawn + (t - s.ent.length)))

/-- `n` words are taken from ENT. -/
def consumeEntropy (n : Nat) (s : State) : State :=
  { s with ent := s.ent.drop n, entDrawn := s.entDrawn + (n - s.ent.length) }

/-- Whether `n` more words are at hand: the environment delivers, or has offered as many. -/
def entropyAtHand (n : Nat) (s : State) : Bool := s.entDelivers || decide (n ≤ s.ent.length)

/-- The E words of a SEEDE, `Key(0)` first, and the state once they are taken; none while the
environment has not delivered them (30_encoding.md R73; 70_reset_and_hazards.md R229). -/
def takeEntropy (e : Nat) (s : State) : Option (List Word × State) :=
  let need := e - (takenSoFar s).length
  if entropyAtHand need s then
    some (takenSoFar s ++ (List.range need).map (nextEntropy s),
      consumeEntropy need { s with waiting := none })
  else none

/-- A SEEDE waits: it takes the words there are and stays in progress
(70_reset_and_hazards.md R229; DEDUCED, log entry 6). -/
def waitForEntropy (s : State) : State :=
  { s with waiting := some (takenSoFar s ++ s.ent), ent := [] }

end Sys2Proof.Machine
end

