-- ==== Sys2Proof/Machine/Seeding.lean ====
section
/-! DEFINITION. The seed scheduler: SEEDS, SEEDA, SEEDE (41_seeding.md). The loops run in place, in
the order the spec gives, because each step reads words written by earlier ones
(70_reset_and_hazards.md R226). -/

namespace Sys2Proof.Machine

/-- One step of the scalar path: `W[i] <- INIT_MULT * Mix30(W[i-1]) + i` (41_seeding.md R111). -/
def scalarStep (i : Nat) (w : Words) : Words :=
  writeW w i (initMult * mix30 (readW w (i - 1)) + BitVec.ofNat 32 i)

/-- The words `ScalarInit(seed)` leaves: `W[0] <- seed`, then i = 1 .. 623 ascending
(41_seeding.md R111). -/
@[irreducible] def scalarInit (w : Words) (seed : Word) : Words :=
  forRange 1 623 scalarStep (writeW w 0 seed)

/-- The array path between two iterations: `W` and the counters `i`, `j` (41_seeding.md R113). -/
structure Mixing where
  w : Words
  i : Nat
  j : Nat
  deriving DecidableEq, Repr

/-- The wrap of `i`: 624 becomes 1, and `W[0] <- W[623]` (41_seeding.md R114). -/
def wrapI (m : Mixing) : Mixing :=
  if 624 ≤ m.i then { m with w := writeW m.w 0 (readW m.w 623), i := 1 } else m

/-- The wrap of `j`: L becomes 0 (41_seeding.md R114). -/
def wrapJ (count : Nat) (m : Mixing) : Mixing :=
  if count ≤ m.j then { m with j := 0 } else m

/-- One iteration of pass 1: XOR first, then add `Key(j)` and `j` (41_seeding.md R114). -/
def pass1Step (keys : List Word) (m : Mixing) : Mixing :=
  let v := (readW m.w m.i ^^^ (mix30 (readW m.w (m.i - 1)) * arrayMult1))
    + keyAt keys m.j + BitVec.ofNat 32 m.j
  wrapJ keys.length (wrapI { w := writeW m.w m.i v, i := m.i + 1, j := m.j + 1 })

/-- Pass 1: `max(624, L)` iterations (41_seeding.md R114). -/
def pass1 (keys : List Word) (m : Mixing) : Mixing :=
  forRange 0 (max 624 keys.length) (fun _ => pass1Step keys) m

/-- One iteration of pass 2: the subtrahend is `i` before it advances (41_seeding.md R115). -/
def pass2Step (m : Mixing) : Mixing :=
  let v := (readW m.w m.i ^^^ (mix30 (readW m.w (m.i - 1)) * arrayMult2)) - BitVec.ofNat 32 m.i
  wrapI { m with w := writeW m.w m.i v, i := m.i + 1 }

/-- Pass 2: 623 iterations, going on with the `i` pass 1 left (41_seeding.md R115, R116). -/
def pass2 (m : Mixing) : Mixing := forRange 0 623 (fun _ => pass2Step) m

/-- The words `ArrayInit(Key, L)` leaves, L ≥ 1 (41_seeding.md R113): `i` starts at 1 and `j` at 0
(R116), and `W[0]` is forced at the end. -/
@[irreducible] def arrayInit (w : Words) (keys : List Word) : Words :=
  writeW (pass2 (pass1 keys { w := scalarInit w arrayBaseSeed, i := 1, j := 0 })).w 0 arrayFinalW0

/-- The array path as an operation on the state: mix, commit, answer OK with no data
(41_seeding.md R112). -/
def seedFromKeys (keys : List Word) (s : State) : State :=
  respond .ok [] (commitSeed (arrayInit s.W keys) s)

/-- Auto-seed from `e` entropy words: exactly the array path over them, once they are there
(41_seeding.md R118). -/
def seedFromEntropy (e : Nat) (s : State) : State :=
  match takeEntropy e s with
  | some (keys, t) => seedFromKeys keys t
  | none => waitForEntropy s

/-- SEEDS (41_seeding.md R110). -/
def execSeeds (seed : Word) (s : State) : Host.Outcome State Fault Refusal :=
  .next (respond .ok [] (commitSeed (scalarInit s.W seed) s))

/-- SEEDA (41_seeding.md R112): no key at all is INVALID_ARGUMENT (60_exceptions.md R191). -/
def execSeeda (keys : List Word) (s : State) : Host.Outcome State Fault Refusal :=
  match keys with
  | [] => .next (raise .invalidArgument s)
  | k :: ks => .next (seedFromKeys (k :: ks) s)

/-- SEEDE (41_seeding.md R118): E = `AUTO_SEED_WORDS` words from ENT. -/
def execSeede (s : State) : Host.Outcome State Fault Refusal :=
  .next (seedFromEntropy Config.autoSeedWords s)

end Sys2Proof.Machine
end

