-- ==== Sys2Proof/Machine/Flags.lean ====
section
/-! DEFINITION. The engine has one flag, `seeded`, and two predicates derived from `index`
(10_state.md R23, R24). No arithmetic sets a flag (40_arithmetic.md R90). -/

namespace Sys2Proof.Machine

/-- `exhausted := (index == 624)`: the next draw twists first (10_state.md R24). -/
def exhausted (s : State) : Bool := s.index.val == 624

/-- `available := (index < 624)`: the next draw reads and advances (10_state.md R24). -/
def available (s : State) : Bool := decide (s.index.val < 624)

/-- The precondition of the four extraction commands: while `seeded == 0` they are answered
NOT_SEEDED and nothing changes (60_exceptions.md R193). -/
def whenSeeded (op : State → State) (s : State) : State :=
  if s.seeded then op s else raise .notSeeded s

end Sys2Proof.Machine
end

