-- ==== Sys2Proof/Machine/Twist.lean ====
section
/-! DEFINITION. The twist unit (42_twist.md): an internal operation of a draw, no command. -/

namespace Sys2Proof.Machine

/-- `y <- Combine(W[k], W[next]); W[k] <- W[src] ^ (y >> 1) ^ Magic(y)`, every read seeing what the
word holds at that moment (42_twist.md R141). -/
def twistAt (w : Words) (k next src : Nat) : Words :=
  let y := combine (readW w k) (readW w next)
  writeW w k (readW w src ^^^ (y >>> 1) ^^^ magic y)

/-- Range 1: k = 0 .. 226, first operand `W[k+397]` (42_twist.md R142). -/
def twistRange1 (w : Words) : Words := forRange 0 227 (fun k v => twistAt v k (k + 1) (k + 397)) w

/-- Range 2: k = 227 .. 622, first operand `W[k-227]` (42_twist.md R143). -/
def twistRange2 (w : Words) : Words := forRange 227 396 (fun k v => twistAt v k (k + 1) (k - 227)) w

/-- Final index: `W[623]` from `W[396]`, with `y` from `W[623]` and `W[0]` (42_twist.md R144;
90_conflicts.md C1). -/
def twistFinal (w : Words) : Words := twistAt w 623 0 396

/-- `Twist()` on the words: the three parts in this order, in place (42_twist.md R141). -/
@[irreducible] def twist (w : Words) : Words := twistFinal (twistRange2 (twistRange1 w))

/-- `Twist()` on the state: the words regenerated, `index <- 0` (42_twist.md R147). -/
def twistState (s : State) : State := { s with W := twist s.W, index := 0 }

end Sys2Proof.Machine
end

