-- ==== Sys2Proof/Machine/Output.lean ====
section
/-! DEFINITION. The draw, the tempering pipeline and the commands NEXT32, NEXTR32, NEXTR53
(43_output.md), with the exact real values their data words denote. -/

namespace Sys2Proof.Machine

/-- `Temper(y)`: four steps, each reading the result of the one before (43_output.md R161). -/
def temper (y0 : Word) : Word :=
  let y1 := y0 ^^^ (y0 >>> 11)
  let y2 := y1 ^^^ ((y1 <<< 7) &&& temperB)
  let y3 := y2 ^^^ ((y2 <<< 15) &&& temperC)
  y3 ^^^ (y3 >>> 18)

/-- `index <- index + 1`, only ever applied to 0 .. 623 (10_state.md R22). -/
def advanceIndex (i : Fin 625) : Fin 625 := Fin.ofNat 625 (i.val + 1)

/-- The twist a draw makes first when the block is exhausted (42_twist.md R140). -/
def regenerate (s : State) : State := if exhausted s then twistState s else s

/-- Read `W[index]`, increment `index`, temper a copy of the word (43_output.md R160). -/
def readAdvance (s : State) : Word × State :=
  (temper (readW s.W s.index.val), { s with index := advanceIndex s.index })

/-- `Draw()` (43_output.md R160). -/
def draw (s : State) : Word × State := readAdvance (regenerate s)

/-- One draw, delivered as it is: the operation of NEXT32 and NEXTR32
(43_output.md R162, R163). -/
def deliverDraw (s : State) : State := respond .ok [(draw s).1] (draw s).2

/-- The 53-bit numerator of two draws, `a * 2^26 + b` with `a` the first draw's upper 27 bits and
`b` the second's upper 26, in unbounded integers (43_output.md R164). -/
def numerator53 (v0 v1 : Word) : Nat := (v0 >>> 5).toNat * 2 ^ 26 + (v1 >>> 6).toNat

/-- The two data words of a 53-bit numerator: `zext_32(n[52:32])`, `n[31:0]`
(30_encoding.md R72). -/
def numeratorWords (n : Nat) : List Word := [BitVec.ofNat 32 (n / 2 ^ 32), BitVec.ofNat 32 n]

/-- Two consecutive draws, combined (43_output.md R164). -/
def deliverReal53 (s : State) : State :=
  let d0 := draw s
  let d1 := draw d0.2
  respond .ok (numeratorWords (numerator53 d0.1 d1.1)) d1.2

/-- NEXT32 (43_output.md R162). -/
def execNext32 (s : State) : Host.Outcome State Fault Refusal := .next (whenSeeded deliverDraw s)

/-- NEXTR32: the data word is the numerator over 2^32 (43_output.md R163). -/
def execNextr32 (s : State) : Host.Outcome State Fault Refusal := .next (whenSeeded deliverDraw s)

/-- NEXTR53: the data words are the numerator over 2^53 (43_output.md R164). -/
def execNextr53 (s : State) : Host.Outcome State Fault Refusal := .next (whenSeeded deliverReal53 s)

/-- The real value a NEXTR32 data word denotes, exactly n / 2^32 (43_output.md R163). -/
def real32Value (n : Word) : Rat := (n.toNat : Rat) / (2 ^ 32 : Nat)

/-- The real value a pair of NEXTR53 data words denotes, exactly n / 2^53 (43_output.md R164;
30_encoding.md R72). -/
def real53Value (hi lo : Word) : Rat :=
  ((hi.toNat * 2 ^ 32 + lo.toNat : Nat) : Rat) / (2 ^ 53 : Nat)

end Sys2Proof.Machine
end

