-- ==== Sys2Proof/Machine/Uuid.lean ====
section
/-! DEFINITION. NEXTUUID (43_output.md R165) and the host's text of the 16 bytes (R166). -/

namespace Sys2Proof.Machine

/-- The 16-byte buffer `B[0..15]` (43_output.md R165). -/
abbrev UuidBuffer := Vector Byte 16

/-- The byte of `v` whose least significant bit is bit `8 * k`. -/
def byteOf (v : Word) (k : Nat) : Byte := v.extractLsb' (8 * k) 8

/-- The byte that draw `v` puts at offset `o` (0 .. 3) of its group of four (43_output.md R165). -/
def drawByte (order : ByteOrder) (v : Word) (o : Nat) : Byte :=
  match order with
  | .big => byteOf v (3 - o)
  | .little => byteOf v o

/-- Four draws into the buffer, draw d into bytes 4d .. 4d+3 (43_output.md R165). -/
def uuidFill (order : ByteOrder) (v0 v1 v2 v3 : Word) : UuidBuffer :=
  #v[drawByte order v0 0, drawByte order v0 1, drawByte order v0 2, drawByte order v0 3,
     drawByte order v1 0, drawByte order v1 1, drawByte order v1 2, drawByte order v1 3,
     drawByte order v2 0, drawByte order v2 1, drawByte order v2 2, drawByte order v2 3,
     drawByte order v3 0, drawByte order v3 1, drawByte order v3 2, drawByte order v3 3]

/-- The two overwrites: high nibble of byte 6 := 0100, two high bits of byte 8 := 10
(43_output.md R165). -/
def uuidStamp (b : UuidBuffer) : UuidBuffer :=
  (b.set 6 ((b[6] &&& 0x0F#8) ||| 0x40#8)).set 8 ((b[8] &&& 0x3F#8) ||| 0x80#8)

/-- The 16 bytes of the UUID of four draws. -/
def uuidBytes (order : ByteOrder) (v0 v1 v2 v3 : Word) : UuidBuffer :=
  uuidStamp (uuidFill order v0 v1 v2 v3)

/-- Four bytes as one response word, the first in bits 31:24 (30_encoding.md R72). -/
def packWord (b0 b1 b2 b3 : Byte) : Word :=
  (b0.setWidth 32 <<< 24) ||| (b1.setWidth 32 <<< 16) ||| (b2.setWidth 32 <<< 8) ||| b3.setWidth 32

/-- The four data words of the buffer (30_encoding.md R72). -/
def uuidWords (b : UuidBuffer) : List Word :=
  [packWord b[0] b[1] b[2] b[3], packWord b[4] b[5] b[6] b[7],
   packWord b[8] b[9] b[10] b[11], packWord b[12] b[13] b[14] b[15]]

/-- Four consecutive draws, delivered as UUID bytes (43_output.md R165). -/
def deliverUuid (order : ByteOrder) (s : State) : State :=
  let d0 := draw s
  let d1 := draw d0.2
  let d2 := draw d1.2
  let d3 := draw d2.2
  respond .ok (uuidWords (uuidBytes order d0.1 d1.1 d2.1 d3.1)) d3.2

/-- NEXTUUID (43_output.md R165) under the open parameter `UUID_BYTE_ORDER`. -/
def execNextuuid (s : State) : Host.Outcome State Fault Refusal :=
  .next (whenSeeded (deliverUuid Config.uuidByteOrder) s)

/-- One hexadecimal digit (43_output.md R166). -/
def hexDigit (c : HexCase) (n : BitVec 4) : Char :=
  if n.toNat < 10 then Char.ofNat (0x30 + n.toNat)
  else match c with
    | .lower => Char.ofNat (0x61 + (n.toNat - 10))
    | .upper => Char.ofNat (0x41 + (n.toNat - 10))

/-- `hex(b)`: two digits, high nibble first (43_output.md R166). -/
def hexByte (c : HexCase) (b : Byte) : List Char :=
  [hexDigit c (b.extractLsb' 4 4), hexDigit c (b.extractLsb' 0 4)]

/-- The UUID text of the 16 bytes, a pure function the host applies (43_output.md R166). -/
def uuidText (c : HexCase) (b : UuidBuffer) : List Char :=
  hexByte c b[0] ++ hexByte c b[1] ++ hexByte c b[2] ++ hexByte c b[3] ++ ['-'] ++
  hexByte c b[4] ++ hexByte c b[5] ++ ['-'] ++ hexByte c b[6] ++ hexByte c b[7] ++ ['-'] ++
  hexByte c b[8] ++ hexByte c b[9] ++ ['-'] ++ hexByte c b[10] ++ hexByte c b[11] ++
  hexByte c b[12] ++ hexByte c b[13] ++ hexByte c b[14] ++ hexByte c b[15]

/-- The text the host forms, in the case `UUID_HEX_CASE` (43_output.md R166). -/
def hostUuidText (b : UuidBuffer) : List Char := uuidText Config.uuidHexCase b

end Sys2Proof.Machine
end

