-- ==== Sys2Proof/Machine/Dispatch.lean ====
section
/-! DEFINITION. One arm for each instruction, each a direct call of its meaning. -/

namespace Sys2Proof.Machine

def exec (i : Instr) (s : State) : Host.Outcome State Fault Refusal :=
  match i with
  | .seeds seed => Sys2Proof.Machine.execSeeds seed s
  | .seeda keys => Sys2Proof.Machine.execSeeda keys s
  | .seede => Sys2Proof.Machine.execSeede s
  | .next32 => Sys2Proof.Machine.execNext32 s
  | .nextr32 => Sys2Proof.Machine.execNextr32 s
  | .nextr53 => Sys2Proof.Machine.execNextr53 s
  | .nextuuid => Sys2Proof.Machine.execNextuuid s

end Sys2Proof.Machine
end

