-- ==== Sys2Proof/WellFormed.lean ====
section
/-! DEFINITION. Which instructions have an encoding: the key count of SEEDA must fit the 24-bit
field LEN (00_scope.md R5, 30_encoding.md R62); every seed and key value is legal
(30_encoding.md R67). -/

namespace Sys2Proof

/-- `KEY_LEN_MAX` = 2^24 - 1, the capacity of the field LEN (00_scope.md R5). -/
def keyLenMax : Nat := 16777215

/-- An instruction that some request packet encodes. -/
def Instr.WellFormed : Instr → Bool
  | .seeds _ => true
  | .seeda keys => decide (keys.length ≤ keyLenMax)
  | .seede => true
  | .next32 => true
  | .nextr32 => true
  | .nextr53 => true
  | .nextuuid => true

end Sys2Proof
end

