-- ==== Sys2Proof/Decode.lean ====
section
/-! DEFINITION. The command word's fields, the total decoder and the encoder
(30_encoding.md R62 to R69, R76). -/

namespace Sys2Proof

/-- `OPC = cmd[31:24]` (30_encoding.md R62). -/
def opcField (cmd : Word) : BitVec 8 := cmd.extractLsb' 24 8

/-- `LEN = zext(cmd[23:0])` (30_encoding.md R62). -/
def lenField (cmd : Word) : Nat := (cmd.extractLsb' 0 24).toNat

/-- Why a packet is malformed; each is answered ILLEGAL_COMMAND (30_encoding.md R69). -/
inductive Reject where
  /-- OPC is 0x00, 0x04 .. 0x0F or 0x14 .. 0xFF. -/
  | unassignedOpcode
  /-- LEN is not zero on a command other than SEEDA. -/
  | reservedLen
  /-- The packet has another number of words than its command requires. -/
  | wrongLength
  deriving DecidableEq, Repr

/-- Format N: the command word alone, LEN zero (30_encoding.md R63). -/
def decodeFormatN (p : Packet) (i : Instr) : Except Reject Instr :=
  if lenField p.cmd = 0 then
    match p.operands with
    | [] => .ok i
    | _ :: _ => .error .wrongLength
  else .error .reservedLen

/-- Format S: one operand word, the seed, LEN zero (30_encoding.md R64). -/
def decodeFormatS (p : Packet) : Except Reject Instr :=
  if lenField p.cmd = 0 then
    match p.operands with
    | [seed] => .ok (.seeds seed)
    | _ => .error .wrongLength
  else .error .reservedLen

/-- Format A: LEN operand words, the keys (30_encoding.md R65). -/
def decodeFormatA (p : Packet) : Except Reject Instr :=
  if p.operands.length = lenField p.cmd then .ok (.seeda p.operands) else .error .wrongLength

/-- The decode procedure (30_encoding.md R76), total on any packet. The two conditions that are not
about the packet's form, INVALID_ARGUMENT and NOT_SEEDED, are raised by the meanings, after this
(60_exceptions.md R196). -/
def decode (p : Packet) : Except Reject Instr :=
  if opcField p.cmd = 0x01#8 then decodeFormatS p
  else if opcField p.cmd = 0x02#8 then decodeFormatA p
  else if opcField p.cmd = 0x03#8 then decodeFormatN p .seede
  else if opcField p.cmd = 0x10#8 then decodeFormatN p .next32
  else if opcField p.cmd = 0x11#8 then decodeFormatN p .nextr32
  else if opcField p.cmd = 0x12#8 then decodeFormatN p .nextr53
  else if opcField p.cmd = 0x13#8 then decodeFormatN p .nextuuid
  else .error .unassignedOpcode

/-- The command word with the given OPC in bits 31:24 and LEN in bits 23:0
(30_encoding.md R62). -/
def commandWord (opc : BitVec 8) (len : Nat) : Word :=
  (opc.setWidth 32 <<< 24) ||| (BitVec.ofNat 24 len).setWidth 32

/-- The operation code of an instruction (30_encoding.md R68). -/
def opcodeOf : Instr → BitVec 8
  | .seeds _ => 0x01#8
  | .seeda _ => 0x02#8
  | .seede => 0x03#8
  | .next32 => 0x10#8
  | .nextr32 => 0x11#8
  | .nextr53 => 0x12#8
  | .nextuuid => 0x13#8

/-- The field LEN of an instruction: the key count for SEEDA, zero for the rest
(30_encoding.md R62). -/
def lenOf : Instr → Nat
  | .seeds _ => 0
  | .seeda keys => keys.length
  | .seede => 0
  | .next32 => 0
  | .nextr32 => 0
  | .nextr53 => 0
  | .nextuuid => 0

/-- The operand words of an instruction (30_encoding.md R63 to R65). -/
def operandsOf : Instr → List Word
  | .seeds seed => [seed]
  | .seeda keys => keys
  | .seede => []
  | .next32 => []
  | .nextr32 => []
  | .nextr53 => []
  | .nextuuid => []

/-- The request packet of an instruction (30_encoding.md R74). -/
def encode (i : Instr) : Packet := ⟨commandWord (opcodeOf i) (lenOf i), operandsOf i⟩

/-- How many operand words the command word asks for: the required packet length less one
(30_encoding.md R66). -/
def operandsRequired (cmd : Word) : Nat :=
  if opcField cmd = 0x01#8 then 1
  else if opcField cmd = 0x02#8 then lenField cmd
  else 0

/-- The packet whose bits are `w`, numbered as the opcode table numbers them: the command word is
bits 31 .. 0, operand word k is bits 32k+63 .. 32k+32; every bit at or above `nbits` is 0, and the
packet has as many operand words as the command word asks for (DESIGN CHOICE, log entry 2). -/
def tablePacket (nbits w : Nat) : Packet :=
  let bits := w % 2 ^ nbits
  let cmd : Word := BitVec.ofNat 32 bits
  let n := max (operandsRequired cmd) ((nbits + 31) / 32 - 1)
  ⟨cmd, (List.range n).map fun k => BitVec.ofNat 32 (bits >>> (32 * (k + 1)))⟩

/-- The instruction the decoder reads from the table's word `w`, none where it refuses. -/
def decodeTableWord (nbits w : Nat) : Option Instr :=
  match decode (tablePacket nbits w) with
  | .ok i => some i
  | .error _ => none

end Sys2Proof
end

