-- ==== Sys2Proof/Machine/Port.lean ====
section
/-! DEFINITION. What the engine does next at its ports: take a packet and decode it, answer a
malformed one, reset, go on with a SEEDE in progress, or hold (20_memory.md R48;
70_reset_and_hazards.md R220, R229). -/

namespace Sys2Proof.Machine

/-- What one step is. -/
inductive Action where
  /-- Nothing to do: the engine holds its state (60_exceptions.md R204). -/
  | hold
  /-- Execute a command. -/
  | run (i : Instr)
  /-- Answer a malformed packet (60_exceptions.md R192). -/
  | answer (st : Status)
  /-- Enter the reset state (70_reset_and_hazards.md R220). -/
  | enterReset
  /-- Enter the reset state in the middle of the packet's execution
  (70_reset_and_hazards.md R220). -/
  | abandon (p : Packet)
  deriving DecidableEq, Repr

/-- Every malformed packet is answered ILLEGAL_COMMAND, whatever is wrong with it
(60_exceptions.md R192). -/
def rejectStatus : Reject → Status
  | .unassignedOpcode => .illegalCommand
  | .reservedLen => .illegalCommand
  | .wrongLength => .illegalCommand

/-- What a packet asks for (30_encoding.md R76). -/
def packetAction (p : Packet) : Action :=
  match decode p with
  | .ok i => .run i
  | .error r => .answer (rejectStatus r)

/-- The next action while no command is in progress: the first of what the host does is taken. -/
def acceptNext (s : State) : Action × State :=
  match s.req with
  | [] => (.hold, s)
  | .packet p :: rest => (packetAction p, { s with req := rest })
  | .reset :: rest => (.enterReset, { s with req := rest })
  | .resetDuring p :: rest => (.abandon p, { s with req := rest })

/-- The next action while a SEEDE waits for entropy: reset is heard, no packet is taken
(70_reset_and_hazards.md R220, R229). That reset is heard before words offered meanwhile are taken
is a DESIGN CHOICE, log entry 6. -/
def resumeWaiting (s : State) : Action × State :=
  match s.req with
  | .reset :: rest => (.enterReset, { s with req := rest })
  | _ => (.run .seede, s)

/-- The next action and the state in which it is done. -/
def nextAction (s : State) : Action × State :=
  match s.waiting with
  | none => acceptNext s
  | some _ => resumeWaiting s

/-- Reset in the middle of a packet's execution: the command is abandoned, no response is owed
(70_reset_and_hazards.md R220); a SEEDE may have taken any number of its words
(DESIGN CHOICE, log entry 7). -/
def abandonPacket (p : Packet) (s : State) : State :=
  match decode p with
  | .ok .seede =>
    applyReset (consumeEntropy (min (Config.abandonedTaken s.resets) Config.autoSeedWords) s)
  | _ => applyReset s

/-- The host presents a packet as the next thing the engine meets, no command being in progress. -/
def presentPacket (p : Packet) (s : State) : State :=
  { s with req := .packet p :: s.req, waiting := none }

end Sys2Proof.Machine
end

