-- ==== Sys2Proof/Machine/Step.lean ====
section
/-! DEFINITION. One step of the engine: one command is one step (20_memory.md R45). -/

namespace Sys2Proof.Machine

/-- One step: the next action at the ports, done whole (DEDUCED, log entry 10). -/
def step (s : State) : Host.Outcome State Fault Refusal :=
  match nextAction s with
  | (.hold, t) => .next t
  | (.run i, t) => exec i t
  | (.answer st, t) => .next (raise st t)
  | (.enterReset, t) => .next (applyReset t)
  | (.abandon p, t) => .next (abandonPacket p t)

/-- `s` with the packet of the opcode table's word `w` presented on REQ ahead of everything else,
so that the next step takes and runs it (DESIGN CHOICE, log entry 2). -/
def State.withFetchWord (s : State) (nbits w : Nat) : State := presentPacket (tablePacket nbits w) s

end Sys2Proof.Machine
end

