-- ==== Sys2Proof/Machine/Assembler.lean ====
section
/-! DEFINITION. The assembler lines of 30_encoding.md R74 and the pseudo-operations of R75: what a
host or an environment does, as a change of what stands at the ports. -/

namespace Sys2Proof.Machine

/-- One line of assembler; operands are integers, each reduced modulo 2^32
(30_encoding.md R74). -/
inductive AsmLine where
  | seeds (seed : Int)
  | seeda (keys : List Int)
  | seede
  | next32
  | nextr32
  | nextr53
  | nextuuid
  /-- `.packet w0, w1, ...`: the literal packet. -/
  | packet (w0 : Int) (ws : List Int)
  /-- `.reset`: the reset request on RST. -/
  | reset
  /-- `.entropy e0, e1, ...`: words the environment will deliver to the next SEEDE. -/
  | entropy (es : List Int)
  deriving DecidableEq, Repr

/-- The packet a line denotes (30_encoding.md R74); none for `.reset` and `.entropy`, and for a
SEEDA of more keys than LEN can count, which is not encodable (93_implementation_defined.md U13). -/
def assemble : AsmLine → Option Packet
  | .seeds seed => some (encode (.seeds (hostWord seed)))
  | .seeda keys =>
    if keys.length ≤ keyLenMax then some (encode (.seeda (keys.map hostWord))) else none
  | .seede => some (encode .seede)
  | .next32 => some (encode .next32)
  | .nextr32 => some (encode .nextr32)
  | .nextr53 => some (encode .nextr53)
  | .nextuuid => some (encode .nextuuid)
  | .packet w0 ws => some ⟨hostWord w0, ws.map hostWord⟩
  | .reset => none
  | .entropy _ => none

/-- A line put at the ports, after what stands there already: packets and resets in one list, the
words of `.entropy` in another, so that a SEEDE takes the words of the `.entropy` lines in program
order whether its own line stands before or after them, and words left over go to a later SEEDE
(30_encoding.md R74 leaves this open; DESIGN CHOICE, log entry 13). -/
def enqueueLine (s : State) (l : AsmLine) : State :=
  match l with
  | .reset => { s with req := s.req ++ [.reset] }
  | .entropy es => { s with ent := s.ent ++ es.map hostWord }
  | l =>
    match assemble l with
    | some p => { s with req := s.req ++ [.packet p] }
    | none => s

/-- A program put at the ports, line by line, before any step (DESIGN CHOICE, log entry 13). -/
def enqueue (s : State) (lines : List AsmLine) : State := lines.foldl enqueueLine s

/-- Construct with a single seed (30_encoding.md R75). -/
def constructScalar (seed : Int) : List AsmLine := [.reset, .seeds seed]

/-- Construct with a sequence of seed words (30_encoding.md R75). -/
def constructArray (keys : List Int) : List AsmLine := [.reset, .seeda keys]

/-- Construct with no seed (30_encoding.md R75). -/
def constructAuto : List AsmLine := [.reset, .seede]

/-- `initialize(seed)` on a constructed engine (30_encoding.md R75). -/
def initializeScalar (seed : Int) : List AsmLine := [.seeds seed]

/-- `initialize(seeds)` on a constructed engine (30_encoding.md R75). -/
def initializeArray (keys : List Int) : List AsmLine := [.seeda keys]

/-- `initialize(null)` with the array path requested: answered INVALID_ARGUMENT
(30_encoding.md R75). -/
def initializeNull : List AsmLine := [.seeda []]

end Sys2Proof.Machine
end

