-- ==== Sys2Proof/Safety.lean ====
section
/-! DEFINITION. What the statements speak of: the invariant of a run, well-formed responses, draws
counted from a state, and powers of the twist. -/

namespace Sys2Proof.Machine

/-- `W` is not degenerate: of the 19937 bits that matter, bit 31 of `W[0]` and all of
`W[1..623]`, at least one is 1 (10_state.md R25 item 3; 42_twist.md R148, R149). -/
def Nondegenerate (w : Words) : Prop :=
  (readW w 0).getLsbD 31 = true ∨ ∃ k, 1 ≤ k ∧ k ≤ 623 ∧ readW w k ≠ 0#32

/-- A response packet as 30_encoding.md R70 and R71 have it: OK with at most four data words, or
one of the three error status words alone. -/
def ResponseOk (r : List Word) : Prop :=
  (∃ data, r = statusWord .ok :: data ∧ data.length ≤ 4) ∨
  r = [statusWord .invalidArgument] ∨ r = [statusWord .illegalCommand] ∨
  r = [statusWord .notSeeded]

/-- The invariant every step keeps: an unseeded engine rests at index 624 (10_state.md R25 item 5),
a seeded one is never degenerate, a waiting SEEDE holds fewer than E words, and every response is
well formed. -/
structure Inv (s : State) : Prop where
  unseeded_index : s.seeded = false → s.index = 624
  seeded_nondegenerate : s.seeded = true → Nondegenerate s.W
  waiting_short : ∀ taken, s.waiting = some taken → taken.length < Config.autoSeedWords
  responses_ok : ∀ r ∈ s.rsp, ResponseOk r

/-- The state after `n` draws (43_output.md R168). -/
def afterDraws : Nat → State → State
  | 0, s => s
  | n + 1, s => (draw (afterDraws n s)).2

/-- The draw made after `n` earlier ones, counted from 0 (43_output.md R168). -/
def nthDraw (n : Nat) (s : State) : Word := (draw (afterDraws n s)).1

/-- The twist applied `b` times: `X_b` of 43_output.md R168. -/
def twistPower : Nat → Words → Words
  | 0, w => w
  | b + 1, w => twist (twistPower b w)

/-- The twist as one loop with indices modulo 624, in place, k ascending (42_twist.md R145). -/
def twistUniform (w : Words) : Words :=
  forRange 0 624 (fun k v => writeW v k
    (twistWord (readW v k) (readW v ((k + 1) % 624)) (readW v ((k + 397) % 624)))) w

/-- Pass 1 after `n` iterations from the start of the array path (41_seeding.md R114, R117). -/
def pass1After (keys : List Word) (n : Nat) (w : Words) : Mixing :=
  forRange 0 n (fun _ => pass1Step keys) { w := scalarInit w arrayBaseSeed, i := 1, j := 0 }

/-- Pass 2 after `n` iterations from where pass 1 left off (41_seeding.md R115, R117). -/
def pass2After (keys : List Word) (n : Nat) (w : Words) : Mixing :=
  forRange 0 n (fun _ => pass2Step) (pass1After keys (max 624 keys.length) w)

/-- The number of data words of an OK response (30_encoding.md R72). -/
def dataWordCount : Instr → Nat
  | .seeds _ => 0
  | .seeda _ => 0
  | .seede => 0
  | .next32 => 1
  | .nextr32 => 1
  | .nextr53 => 2
  | .nextuuid => 4

/-- The number of draws a successful command makes (43_output.md R168). -/
def drawCount : Instr → Nat
  | .seeds _ => 0
  | .seeda _ => 0
  | .seede => 0
  | .next32 => 1
  | .nextr32 => 1
  | .nextr53 => 2
  | .nextuuid => 4

/-- The four value-extraction commands (43_output.md). -/
def IsExtraction (i : Instr) : Prop :=
  i = .next32 ∨ i = .nextr32 ∨ i = .nextr53 ∨ i = .nextuuid

/-- The malformed packets, as 60_exceptions.md R192 lists them: an unassigned OPC, a non-zero LEN
on a command other than SEEDA, or a packet of another number of words than the command requires
(2 for SEEDS, 1 + LEN for SEEDA, 1 for the rest). -/
def MalformedPacket (p : Packet) : Prop :=
  opcField p.cmd ∉ [0x01#8, 0x02#8, 0x03#8, 0x10#8, 0x11#8, 0x12#8, 0x13#8] ∨
  (opcField p.cmd ∈ [0x01#8, 0x03#8, 0x10#8, 0x11#8, 0x12#8, 0x13#8] ∧ lenField p.cmd ≠ 0) ∨
  (opcField p.cmd = 0x01#8 ∧ p.operands.length + 1 ≠ 2) ∨
  (opcField p.cmd = 0x02#8 ∧ p.operands.length + 1 ≠ 1 + lenField p.cmd) ∨
  (opcField p.cmd ∈ [0x03#8, 0x10#8, 0x11#8, 0x12#8, 0x13#8] ∧ p.operands.length + 1 ≠ 1)

/-- What a line of assembler puts on REQ and RST: its packet, the reset request, or nothing
(30_encoding.md R74). -/
def lineEvents : AsmLine → List HostEvent
  | .reset => [.reset]
  | l => (assemble l).toList.map .packet

/-- What a line of assembler puts on ENT (30_encoding.md R74). -/
def lineEntropy : AsmLine → List Word
  | .entropy es => es.map hostWord
  | _ => []

/-- `bswap`: the four bytes of a word reversed (43_output.md R165). -/
def bswap (v : Word) : Word := packWord (byteOf v 0) (byteOf v 1) (byteOf v 2) (byteOf v 3)

/-- The hexadecimal digits of a case, as characters (43_output.md R166). -/
def hexDigits : HexCase → List Char
  | .lower => ['0', '1', '2', '3', '4', '5', '6', '7', '8', '9', 'a', 'b', 'c', 'd', 'e', 'f']
  | .upper => ['0', '1', '2', '3', '4', '5', '6', '7', '8', '9', 'A', 'B', 'C', 'D', 'E', 'F']

end Sys2Proof.Machine
end

