-- ==== Sys2Proof/Certificates/Slice0/Obligations.lean ====
section
/-! DEFINITION. The statements for the provers, each formalising what the spec says of the engine.
Free values and open parameters (Config) are universally open: no statement rests on one. -/

open Sys2Proof Sys2Proof.Machine

/-! ## Packets -/

/-- Decoding an encoded well-formed instruction gives it back, with every operand at every value
(30_encoding.md sections 2 to 5). -/
def Obligations.DecodeOfEncode : Prop :=
  ∀ i : Instr, i.WellFormed = true → decode (encode i) = .ok i

/-- Whatever packet decodes to an instruction is that instruction's own encoding, and the
instruction is well formed: no two packets mean the same, none is misread (30_encoding.md
sections 2 to 5). -/
def Obligations.EncodeOfDecode : Prop :=
  ∀ (p : Packet) (i : Instr), decode p = .ok i → i.WellFormed = true ∧ encode i = p

/-- A few packets written out word by word (95_test_vectors.md section 2.2). -/
def Obligations.DecodeOfWrittenOutPackets : Prop :=
  decode ⟨0x01000000#32, [0x00001571#32]⟩ = .ok (.seeds 5489#32) ∧
  decode ⟨0x02000004#32, [0x123#32, 0x234#32, 0x345#32, 0x456#32]⟩ =
    .ok (.seeda [0x123#32, 0x234#32, 0x345#32, 0x456#32]) ∧
  decode ⟨0x02000000#32, []⟩ = .ok (.seeda []) ∧
  decode ⟨0x03000000#32, []⟩ = .ok .seede ∧
  decode ⟨0x10000000#32, []⟩ = .ok .next32 ∧
  decode ⟨0x11000000#32, []⟩ = .ok .nextr32 ∧
  decode ⟨0x12000000#32, []⟩ = .ok .nextr53 ∧
  decode ⟨0x13000000#32, []⟩ = .ok .nextuuid ∧
  decode ⟨0x10000001#32, []⟩ = .error .reservedLen ∧
  decode ⟨0x02000000#32, [0x5#32]⟩ = .error .wrongLength ∧
  decode ⟨0xFF000000#32, []⟩ = .error .unassignedOpcode

/-- The packets the assembler lines denote, operands reduced modulo 2^32; `.reset` is no packet but
the reset request on RST; `.entropy` is no packet but the words of the next SEEDE: directly before
one, E words with none offered earlier, it makes that SEEDE the SEEDA of them (30_encoding.md R74).
Which SEEDE words take that stand otherwise the rule leaves open, and nothing is said of it here. -/
def Obligations.AssemblerLinesDenoteTheirPackets : Prop :=
  (∀ v : Int, ((hostWord v).toNat : Int) = v % 2 ^ 32) ∧
  (∀ v : Int, assemble (.seeds v) = some ⟨0x01000000#32, [hostWord v]⟩) ∧
  (∀ ks : List Int, ks.length ≤ keyLenMax →
    assemble (.seeda ks) =
      some ⟨0x02000000#32 ||| BitVec.ofNat 32 ks.length, ks.map hostWord⟩) ∧
  assemble (.seeda []) = some ⟨0x02000000#32, []⟩ ∧
  assemble .seede = some ⟨0x03000000#32, []⟩ ∧
  assemble .next32 = some ⟨0x10000000#32, []⟩ ∧
  assemble .nextr32 = some ⟨0x11000000#32, []⟩ ∧
  assemble .nextr53 = some ⟨0x12000000#32, []⟩ ∧
  assemble .nextuuid = some ⟨0x13000000#32, []⟩ ∧
  (∀ (w : Int) (ws : List Int), assemble (.packet w ws) = some ⟨hostWord w, ws.map hostWord⟩) ∧
  assemble .reset = none ∧
  (∀ s : State, enqueueLine s .reset = { s with req := s.req ++ [.reset] }) ∧
  (∀ es : List Int, assemble (.entropy es) = none) ∧
  (∀ (s : State) (es : List Int),
    s.waiting = none → s.ent = [] → es.length = Config.autoSeedWords →
    exec .seede (enqueueLine s (.entropy es)) = exec (.seeda (es.map hostWord)) s) ∧
  (∀ (s : State) (l : AsmLine) (p : Packet), assemble l = some p →
    enqueueLine s l = { s with req := s.req ++ [.packet p] })

/-! ## Error responses -/

/-- ILLEGAL_COMMAND answers every malformed packet, and only those: the packet is discarded, none
of its words is executed, nothing else changes (60_exceptions.md R192). -/
def Obligations.MalformedPacketIsAnsweredIllegalCommand : Prop :=
  (∀ (s : State) (p : Packet) (rest : List HostEvent),
    s.waiting = none → s.req = .packet p :: rest → MalformedPacket p →
    step s = .next { s with req := rest, rsp := s.rsp ++ [[0x00000002#32]] }) ∧
  (∀ p : Packet, ¬ MalformedPacket p → ∃ i, decode p = .ok i)

/-- SEEDA with no key is answered INVALID_ARGUMENT with nothing changed, and no other command ever
is (60_exceptions.md R191). -/
def Obligations.InvalidArgumentOnlyForSeedaWithoutKeys : Prop :=
  (∀ s : State, exec (.seeda []) s = .next { s with rsp := s.rsp ++ [[0x00000001#32]] }) ∧
  (∀ (i : Instr) (s t : State), exec i s = .next t →
    t.rsp = s.rsp ++ [[0x00000001#32]] → i = .seeda [])

/-- An extraction command while `seeded = 0` is answered NOT_SEEDED with nothing changed: no draw,
no twist; and nothing else is ever answered so (60_exceptions.md R193). -/
def Obligations.NotSeededExactlyForUnseededExtraction : Prop :=
  (∀ (s : State) (i : Instr), IsExtraction i → s.seeded = false →
    exec i s = .next { s with rsp := s.rsp ++ [[0x00000003#32]] }) ∧
  (∀ (i : Instr) (s t : State), exec i s = .next t →
    t.rsp = s.rsp ++ [[0x00000003#32]] → IsExtraction i ∧ s.seeded = false)

/-- Error entry: a packet answered with a status other than OK has the status word alone as its
response, no state element changes, no entropy word is consumed, and the engine is ready for the
next packet (60_exceptions.md R197). -/
def Obligations.ErrorAnswerChangesNothing : Prop :=
  ∀ (s t : State) (p : Packet) (rest : List HostEvent) (st : Status) (data : List Word),
    s.waiting = none → s.req = .packet p :: rest → step s = .next t → st ≠ .ok →
    t.rsp = s.rsp ++ [statusWord st :: data] →
    data = [] ∧ t = { s with req := rest, rsp := s.rsp ++ [[statusWord st]] }

/-- The order in which conditions are tested: ILLEGAL_COMMAND, then INVALID_ARGUMENT or NOT_SEEDED,
otherwise the operation runs and ends OK (SEEDE where the environment delivers), with the two
examples of the rule (60_exceptions.md R196). -/
def Obligations.ErrorPriorityOrder : Prop :=
  (∀ (s : State) (p : Packet) (rest : List HostEvent),
    s.waiting = none → s.req = .packet p :: rest →
    (MalformedPacket p → ∃ t, step s = .next t ∧ t.rsp = s.rsp ++ [[0x00000002#32]]) ∧
    (∀ i, decode p = .ok i →
      (i = .seeda [] → ∃ t, step s = .next t ∧ t.rsp = s.rsp ++ [[0x00000001#32]]) ∧
      (IsExtraction i → s.seeded = false →
        ∃ t, step s = .next t ∧ t.rsp = s.rsp ++ [[0x00000003#32]]) ∧
      (i ≠ .seeda [] → (IsExtraction i → s.seeded = true) →
        (i = .seede → s.entDelivers = true) →
        ∃ t data, step s = .next t ∧ t.rsp = s.rsp ++ [0x00000000#32 :: data]))) ∧
  (∀ (s : State) (rest : List HostEvent), s.waiting = none → s.seeded = false →
    s.req = .packet ⟨0x10000001#32, []⟩ :: rest →
    ∃ t, step s = .next t ∧ t.rsp = s.rsp ++ [[0x00000002#32]]) ∧
  (∀ (s : State) (rest : List HostEvent), s.waiting = none →
    s.req = .packet ⟨0x02000000#32, [0x5#32]⟩ :: rest →
    ∃ t, step s = .next t ∧ t.rsp = s.rsp ++ [[0x00000002#32]])

/-- Every packet the engine takes gets exactly one response: a status word (bits 31:8 zero) and up
to four data words, as many as the command gives when OK, none otherwise (30_encoding.md
section 6). Only a SEEDE whose environment does not deliver and has offered fewer than E words has
not answered yet: that it is stuck is 70_reset_and_hazards.md R229 and 92_eei_decisions.md D25, that
it then stands in the field `waiting` is the model's reading (DEDUCED, log entry 6). -/
def Obligations.OneResponseForEachPacket : Prop :=
  ∀ (s : State) (p : Packet) (rest : List HostEvent),
    s.waiting = none → s.req = .packet p :: rest →
    ∃ t, step s = .next t ∧
      ((decode p = .ok .seede ∧ s.entDelivers = false ∧
        s.ent.length < Config.autoSeedWords ∧ t.waiting ≠ none ∧ t.rsp = s.rsp) ∨
       (t.waiting = none ∧ ∃ st data, t.rsp = s.rsp ++ [statusWord st :: data] ∧
        (statusWord st).toNat < 256 ∧ data.length ≤ 4 ∧
        (st ≠ .ok → data = []) ∧
        (st = .ok → ∃ i, decode p = .ok i ∧ data.length = dataWordCount i)))

/-! ## The machine -/

/-- When the packet at the port decodes to an instruction, the step is that instruction's meaning,
the packet being taken off the port; a SEEDE in progress is gone on with (30_encoding.md R76,
20_memory.md R45). -/
def Obligations.StepRunsTheDecodedInstruction : Prop :=
  (∀ (s : State) (p : Packet) (rest : List HostEvent) (i : Instr),
    s.waiting = none → s.req = .packet p :: rest → decode p = .ok i →
    step s = exec i { s with req := rest }) ∧
  (∀ (s : State) (taken : List Word), s.waiting = some taken →
    (∀ rest, s.req ≠ .reset :: rest) → step s = exec .seede s)

/-- Reset: `seeded = 0`, `index = 624`, a command in progress abandoned and unanswered (a SEEDE that
waits, or any packet during whose execution reset comes); afterwards the engine waits for the next
packet (70_reset_and_hazards.md section 1). The rule says nothing of ENT: that reset is heard before
words offered to a waiting SEEDE are taken, so that `ent` is unchanged, is the model's choice (log
entry 6), and the form of a reset in the middle of a packet's execution is log entry 7's. -/
def Obligations.ResetAbandonsAndUnseeds : Prop :=
  (∀ (s : State) (rest : List HostEvent), s.req = .reset :: rest →
    ∃ t, step s = .next t ∧ t.seeded = false ∧ t.index = 624 ∧ t.waiting = none ∧
      t.rsp = s.rsp ∧ t.req = rest ∧ t.ent = s.ent ∧ t.entDelivers = s.entDelivers) ∧
  (∀ (s : State) (p : Packet) (rest : List HostEvent),
    s.waiting = none → s.req = .resetDuring p :: rest →
    ∃ t, step s = .next t ∧ t.seeded = false ∧ t.index = 624 ∧ t.waiting = none ∧
      t.rsp = s.rsp ∧ t.req = rest ∧ t.entDelivers = s.entDelivers) ∧
  (∀ s : State, s.waiting = none → s.req = [] → step s = .next s)

/-- Every step answers a next state: the engine never faults and refuses nothing
(30_encoding.md R76, 60_exceptions.md R194, 70_reset_and_hazards.md R229). -/
def Obligations.EveryStepAnswersANextState : Prop :=
  ∀ s : State, ∃ t, step s = .next t

/-- The values the spec gives for reset (10_state.md section 7): unseeded, index 624; and no
command is in progress. `W` is unspecified and nothing is said of it. -/
def Obligations.ResetStateValues : Prop :=
  State.reset.seeded = false ∧ State.reset.index = 624 ∧ State.reset.waiting = none

/-- The invariant holds right after reset. -/
def Obligations.ResetMeetsTheInvariant : Prop := Inv State.reset

/-- Every step from every state that meets the invariant gives a state that meets it: an unseeded
engine rests at index 624, a seeded one is never degenerate, a waiting SEEDE holds fewer than E
words, every response is well formed (10_state.md R25, 42_twist.md R148, 30_encoding.md R70). The
third part is about the model's own field `waiting` (log entry 6). -/
def Obligations.StepKeepsTheInvariant : Prop :=
  ∀ s t : State, Inv s → step s = .next t → Inv t

/-- `W` is never read before it is written: on an unseeded engine, whatever `W` holds, the step is
the same in every other field, and the same in `W` too once the step has seeded the engine
(10_state.md section 7, inference of R29 from R26 and R23). -/
def Obligations.UnseededStateVectorIsNeverObserved : Prop :=
  ∀ (s : State) (w : Words), s.seeded = false →
    ∃ t u, step s = .next t ∧ step { s with W := w } = .next u ∧
      { u with W := t.W } = t ∧ (t.seeded = true → u.W = t.W)

/-! ## Arithmetic -/

/-- Mix30, Combine, Magic and TwistWord bit by bit, with the rules' examples
(40_arithmetic.md R98, R100 to R102). -/
def Obligations.SharedFunctionsBitByBit : Prop :=
  (∀ x : Word, (mix30 x).getLsbD 0 = (x.getLsbD 0 ^^ x.getLsbD 30) ∧
    (mix30 x).getLsbD 1 = (x.getLsbD 1 ^^ x.getLsbD 31) ∧
    ∀ k, 2 ≤ k → k < 32 → (mix30 x).getLsbD k = x.getLsbD k) ∧
  (∀ u l : Word, (combine u l).getLsbD 31 = u.getLsbD 31 ∧
    ∀ k, k < 31 → (combine u l).getLsbD k = l.getLsbD k) ∧
  (∀ y : Word, (y.getLsbD 0 = true → magic y = 0x9908B0DF#32) ∧
    (y.getLsbD 0 = false → magic y = 0x00000000#32)) ∧
  (∀ u l s : Word, twistWord u l s = s ^^^ (combine u l >>> 1) ^^^ magic (combine u l)) ∧
  mix30 0x00001571#32 = 0x00001571#32 ∧ mix30 0x4D98EE96#32 = 0x4D98EE97#32 ∧
  mix30 0xFFFFFFFF#32 = 0xFFFFFFFC#32 ∧ mix30 0x80000000#32 = 0x80000002#32 ∧
  combine 0x00001571#32 0x4D98EE96#32 = 0x4D98EE96#32 ∧
  combine 0x4D98EE96#32 0xAF25F095#32 = 0x2F25F095#32 ∧
  combine 0xFFFFFFFF#32 0x00000000#32 = 0x80000000#32 ∧
  twistWord 0x00001571#32 0x4D98EE96#32 0xBDC68D6C#32 = 0x9B0AFA27#32 ∧
  twistWord 0x4D98EE96#32 0xAF25F095#32 0x6707ABF4#32 = 0xE99DE361#32

/-- The 16-bit-limb form of the product equals the product (40_arithmetic.md section 1). -/
def Obligations.LimbSplitIsTheProduct : Prop := ∀ a b : Word, mulLimb a b = a * b

/-! ## Seeding -/

/-- SEEDS: its packet; `W[0]` is the seed and each further word follows from the one before;
`index <- 624`, `seeded <- 1`, the answer is OK with no data, everything else is unchanged
(41_seeding.md R110, R111). -/
def Obligations.SeedsFillsTheStateVector : Prop :=
  ∀ (seed : Word) (s : State),
    encode (.seeds seed) = ⟨0x01000000#32, [seed]⟩ ∧
    ∃ t, exec (.seeds seed) s = .next t ∧
      readW t.W 0 = seed ∧
      (∀ i, 1 ≤ i → i ≤ 623 →
        readW t.W i =
          1812433253#32 * (readW t.W (i - 1) ^^^ (readW t.W (i - 1) >>> 30)) + BitVec.ofNat 32 i) ∧
      t = { s with W := t.W, index := 624, seeded := true, rsp := s.rsp ++ [[0x00000000#32]] }

/-- SEEDA: its packet; with no key INVALID_ARGUMENT and no change; with keys, the scalar seed
19650218, pass 1, pass 2, then `W[0] <- 0x80000000`, `index <- 624`, `seeded <- 1`, the answer is
OK with no data, everything else is unchanged (41_seeding.md R112, R113). -/
def Obligations.SeedaRunsTheArrayPath : Prop :=
  (∀ keys : List Word,
    encode (.seeda keys) = ⟨commandWord 0x02#8 keys.length, keys⟩) ∧
  (∀ s : State, exec (.seeda []) s = .next { s with rsp := s.rsp ++ [[0x00000001#32]] }) ∧
  (∀ (keys : List Word) (s : State), keys ≠ [] →
    ∃ t, exec (.seeda keys) s = .next t ∧
      readW t.W 0 = 0x80000000#32 ∧
      (∀ k, 1 ≤ k → k ≤ 623 → readW t.W k = readW (pass2After keys 623 s.W).w k) ∧
      pass1After keys 0 s.W = { w := scalarInit s.W 19650218#32, i := 1, j := 0 } ∧
      pass2After keys 0 s.W = pass1After keys (max 624 keys.length) s.W ∧
      t = { s with W := t.W, index := 624, seeded := true, rsp := s.rsp ++ [[0x00000000#32]] })

/-- One iteration of pass 1: the word at `i` from itself, the word before it, `Key(j)` and `j`, then
both counters advance and wrap, the wrap of `i` copying `W[623]` into `W[0]`; no other word changes;
and there are max(624, L) iterations before pass 2 (41_seeding.md R114). -/
def Obligations.PassOneIteration : Prop :=
  ∀ (keys : List Word) (w : Words) (n : Nat), keys ≠ [] →
    let m := pass1After keys n w
    let m' := pass1After keys (n + 1) w
    readW m'.w m.i =
      (readW m.w m.i ^^^ (mix30 (readW m.w (m.i - 1)) * 1664525#32)) + keys.getD m.j 0#32
        + BitVec.ofNat 32 m.j ∧
    (m.i < 623 → m'.i = m.i + 1 ∧ readW m'.w 0 = readW m.w 0) ∧
    (m.i = 623 → m'.i = 1 ∧ readW m'.w 0 = readW m'.w 623) ∧
    (m.j + 1 < keys.length → m'.j = m.j + 1) ∧
    (m.j + 1 = keys.length → m'.j = 0) ∧
    (∀ k, k ≠ 0 → k ≠ m.i → readW m'.w k = readW m.w k) ∧
    pass2After keys 0 w = pass1After keys (max 624 keys.length) w

/-- One iteration of pass 2: the word at `i` from itself, the word before it and `i` before it
advances, with the same wrap of `i`; and there are 623 iterations (41_seeding.md R115). -/
def Obligations.PassTwoIteration : Prop :=
  ∀ (keys : List Word) (w : Words) (n : Nat), keys ≠ [] →
    let m := pass2After keys n w
    let m' := pass2After keys (n + 1) w
    readW m'.w m.i =
      (readW m.w m.i ^^^ (mix30 (readW m.w (m.i - 1)) * 1566083941#32)) - BitVec.ofNat 32 m.i ∧
    (m.i < 623 → m'.i = m.i + 1 ∧ readW m'.w 0 = readW m.w 0) ∧
    (m.i = 623 → m'.i = 1 ∧ readW m'.w 0 = readW m'.w 623) ∧
    (∀ k, k ≠ 0 → k ≠ m.i → readW m'.w k = readW m.w k) ∧
    (∀ k, k ≠ 0 → readW (arrayInit w keys) k = readW (pass2After keys 623 w).w k)

/-- Closed forms of the counters, K = max(624, L): so every access of the array path is in range
(41_seeding.md section 2, the inference R117). -/
def Obligations.PassCountersInClosedForm : Prop :=
  ∀ (keys : List Word) (w : Words) (n : Nat), keys ≠ [] →
    (pass1After keys n w).i = 1 + n % 623 ∧
    (pass1After keys n w).j = n % keys.length ∧
    (pass2After keys n w).i = 1 + (max 624 keys.length + n) % 623

/-- The scalar path never leaves two adjacent zero words (42_twist.md section 3, inference of
R148). -/
def Obligations.ScalarSeedLeavesNoTwoAdjacentZeroWords : Prop :=
  ∀ (w : Words) (seed : Word) (i : Nat), 1 ≤ i → i ≤ 623 →
    ¬ (readW (scalarInit w seed) (i - 1) = 0#32 ∧ readW (scalarInit w seed) i = 0#32)

/-- Re-seeding: a seeding command leaves the same state whatever `W`, `index` and `seeded` were
before (41_seeding.md section 4, 10_state.md section 2). -/
def Obligations.SeedingIgnoresTheOldState : Prop :=
  ∀ (s : State) (w : Words) (ix : Fin 625) (sd : Bool),
    (∀ seed, exec (.seeds seed) { s with W := w, index := ix, seeded := sd } =
      exec (.seeds seed) s) ∧
    (∀ k ks, exec (.seeda (k :: ks)) { s with W := w, index := ix, seeded := sd } =
      exec (.seeda (k :: ks)) s) ∧
    (s.entDelivers = true →
      exec .seede { s with W := w, index := ix, seeded := sd } = exec .seede s)

/-- SEEDE: its packet; once its E ≥ 4 words are at hand (delivered, or offered already) it is
exactly SEEDA of them, those taken while waiting first, then those offered on ENT in order, and E
words are taken in all; it ends OK with `seeded = 1`, `index = 624` and `W[0] = 0x80000000`
(41_seeding.md R118). -/
def Obligations.SeedeIsSeedaOfTheEntropyWords : Prop :=
  encode .seede = ⟨0x03000000#32, []⟩ ∧
  4 ≤ Config.autoSeedWords ∧ Config.autoSeedWords ≤ keyLenMax ∧
  ∀ s : State, (takenSoFar s).length < Config.autoSeedWords →
    (s.entDelivers = true ∨ Config.autoSeedWords - (takenSoFar s).length ≤ s.ent.length) →
    ∃ more drawn t,
      (takenSoFar s ++ more).length = Config.autoSeedWords ∧
      (∀ k, k < more.length → k < s.ent.length → more[k]? = s.ent[k]?) ∧
      exec .seede s = exec (.seeda (takenSoFar s ++ more))
        { s with waiting := none, ent := s.ent.drop more.length, entDrawn := drawn } ∧
      exec .seede s = .next t ∧ t.seeded = true ∧ t.index = 624 ∧
      readW t.W 0 = 0x80000000#32 ∧ t.rsp = s.rsp ++ [[0x00000000#32]]

/-- Without enough entropy SEEDE takes the words there are and waits, unanswered; and then nothing
more happens, whatever packets stand at the port, until words or a reset come
(70_reset_and_hazards.md section 6; the waiting field is the model's, log entry 6). -/
def Obligations.SeedeWaitsForEntropy : Prop :=
  (∀ s : State, s.entDelivers = false →
    (takenSoFar s).length + s.ent.length < Config.autoSeedWords →
    exec .seede s = .next { s with waiting := some (takenSoFar s ++ s.ent), ent := [] }) ∧
  (∀ (s : State) (taken : List Word), s.entDelivers = false → s.waiting = some taken →
    s.ent = [] → taken.length < Config.autoSeedWords → (∀ rest, s.req ≠ .reset :: rest) →
    step s = .next s)

/-- No command but SEEDE takes a word from ENT (30_encoding.md section 7). -/
def Obligations.OnlySeedeTakesEntropy : Prop :=
  ∀ (i : Instr) (s t : State), exec i s = .next t → i ≠ .seede →
    t.ent = s.ent ∧ t.entDrawn = s.entDrawn ∧ t.waiting = s.waiting

/-- The frame of the seeding commands SEEDS, SEEDA, SEEDE: what stands on REQ and what the
environment does are unchanged, earlier responses stay, the count of resets stays; `seeded` is
never cleared; and where no OK is answered `W`, `index` and `seeded` are unchanged
(10_state.md section 2). -/
def Obligations.SeedingFrame : Prop :=
  ∀ (i : Instr) (s t : State), ¬ IsExtraction i → exec i s = .next t →
    t.req = s.req ∧ t.entDelivers = s.entDelivers ∧ t.resets = s.resets ∧
    (∃ more, t.rsp = s.rsp ++ more) ∧ (s.seeded = true → t.seeded = true) ∧
    (t.rsp ≠ s.rsp ++ [[0x00000000#32]] →
      t.W = s.W ∧ t.index = s.index ∧ t.seeded = s.seeded)

/-! ## The twist -/

/-- The three parts of the twist, with the values each reads: old ones in range 1; the first operand
new, the others old in range 2; at the final index `W[623]` old, `W[0]` and `W[396]` new
(42_twist.md R142, R143, R144). -/
def Obligations.TwistOldAndNewOperands : Prop :=
  ∀ w : Words,
    (∀ k, k < 227 → readW (twist w) k =
      twistWord (readW w k) (readW w (k + 1)) (readW w (k + 397))) ∧
    (∀ k, 227 ≤ k → k < 623 → readW (twist w) k =
      twistWord (readW w k) (readW w (k + 1)) (readW (twist w) (k + 397 - 624))) ∧
    readW (twist w) 623 =
      twistWord (readW w 623) (readW (twist w) 0) (readW (twist w) 396)

/-- The three parts are one in-place loop with indices modulo 624 (42_twist.md section 2, the
inference R145). -/
def Obligations.TwistIsOneUniformLoop : Prop := ∀ w : Words, twist w = twistUniform w

/-- Bits 30:0 of `W[0]` are never read by the twist (42_twist.md section 3, inference of R148). -/
def Obligations.TwistIgnoresTheLowBitsOfWordZero : Prop :=
  ∀ (w : Words) (v : Word), v.getLsbD 31 = (readW w 0).getLsbD 31 →
    twist (writeW w 0 v) = twist w

/-- The twist neither makes nor removes degeneracy: the 19937 bits that matter are all zero after
it exactly when they were before (42_twist.md section 3, R148 and R149; 10_state.md R25 item 3). -/
def Obligations.TwistKeepsNondegeneracy : Prop :=
  ∀ w : Words, Nondegenerate (twist w) ↔ Nondegenerate w

/-! ## Output -/

/-- The draw state machine: exhausted, the twist runs, `W[0]` of the new block is read, `index` is
1; available, `W[index]` is read and `index` goes up by one, `W` unchanged; nothing else changes
(43_output.md R160, R167). -/
def Obligations.DrawStateMachine : Prop :=
  ∀ s : State,
    (s.index.val = 624 →
      draw s = (temper (readW (twist s.W) 0), { s with W := twist s.W, index := 1 })) ∧
    (s.index.val < 624 →
      (draw s).1 = temper (readW s.W s.index.val) ∧
      (draw s).2.index.val = s.index.val + 1 ∧
      (draw s).2 = { s with index := (draw s).2.index })

/-- Temper, its four steps bit by bit, each reading the result of the one before, left shifts losing
what leaves the word and right shifts bringing in zeros; with the rule's examples
(43_output.md R161). -/
def Obligations.TemperFourStepsBitByBit : Prop :=
  (∀ y0 : Word, ∃ y1 y2 y3 : Word,
    (∀ k, k < 32 → y1.getLsbD k = (y0.getLsbD k ^^ (decide (k < 21) && y0.getLsbD (k + 11)))) ∧
    (∀ k, k < 32 → y2.getLsbD k =
      (y1.getLsbD k ^^ (decide (7 ≤ k) && y1.getLsbD (k - 7) && (0x9D2C5680#32).getLsbD k))) ∧
    (∀ k, k < 32 → y3.getLsbD k =
      (y2.getLsbD k ^^ (decide (15 ≤ k) && y2.getLsbD (k - 15) && (0xEFC60000#32).getLsbD k))) ∧
    (∀ k, k < 32 → (temper y0).getLsbD k =
      (y3.getLsbD k ^^ (decide (k < 14) && y3.getLsbD (k + 18))))) ∧
  temper 0x00000000#32 = 0x00000000#32 ∧ temper 0xFFFFFFFF#32 = 0x6FE01BF8#32 ∧
  temper 0x00000001#32 = 0x00400091#32 ∧ temper 0x80000000#32 = 0x88102204#32 ∧
  temper 0x9B0AFA27#32 = 0xD091BB5C#32

/-- Tempering loses nothing: different raw words give different outputs (00_scope.md section 4,
"its state is invertible from a long enough output run"). -/
def Obligations.TemperIsInjective : Prop := ∀ x y : Word, temper x = temper y → x = y

/-- NEXT32: its packet; unseeded NOT_SEEDED; seeded, one draw, twisting first at index 624, answered
OK with the tempered word; nothing else changes (43_output.md R162). -/
def Obligations.Next32DeliversOneDraw : Prop :=
  encode .next32 = ⟨0x10000000#32, []⟩ ∧
  (∀ s : State, s.seeded = false →
    exec .next32 s = .next { s with rsp := s.rsp ++ [[0x00000003#32]] }) ∧
  (∀ s : State, s.seeded = true → s.index.val < 624 →
    ∃ t, exec .next32 s = .next t ∧ t.index.val = s.index.val + 1 ∧
      t = { s with
        index := t.index
        rsp := s.rsp ++ [[0x00000000#32, temper (readW s.W s.index.val)]] }) ∧
  (∀ s : State, s.seeded = true → s.index.val = 624 →
    exec .next32 s = .next { s with
      W := twist s.W
      index := 1
      rsp := s.rsp ++ [[0x00000000#32, temper (readW (twist s.W) 0)]] })

/-- NEXTR32: its packet; unseeded NOT_SEEDED; seeded, one draw n, answered OK with the numerator n;
the value it denotes is exactly n / 2^32, at least 0 and below 1 (43_output.md R163). -/
def Obligations.Nextr32DeliversTheNumerator : Prop :=
  encode .nextr32 = ⟨0x11000000#32, []⟩ ∧
  (∀ s : State, s.seeded = false →
    exec .nextr32 s = .next { s with rsp := s.rsp ++ [[0x00000003#32]] }) ∧
  (∀ s : State, s.seeded = true →
    exec .nextr32 s = .next { (draw s).2 with rsp := s.rsp ++ [[0x00000000#32, (draw s).1]] }) ∧
  (∀ n : Word, real32Value n * 2 ^ 32 = n.toNat ∧ 0 ≤ real32Value n ∧ real32Value n < 1)

/-- NEXTR53: its packet; unseeded NOT_SEEDED; seeded, two draws whose upper 27 and 26 bits make the
53-bit numerator n, answered OK with its upper 21 bits and its lower 32; the value it denotes is
exactly n / 2^53, at least 0 and below 1 (43_output.md R164). -/
def Obligations.Nextr53CombinesTwoDraws : Prop :=
  encode .nextr53 = ⟨0x12000000#32, []⟩ ∧
  (∀ s : State, s.seeded = false →
    exec .nextr53 s = .next { s with rsp := s.rsp ++ [[0x00000003#32]] }) ∧
  (∀ s : State, s.seeded = true →
    ∃ hi lo : Word,
      exec .nextr53 s =
        .next { afterDraws 2 s with rsp := s.rsp ++ [[0x00000000#32, hi, lo]] } ∧
      hi.toNat * 2 ^ 32 + lo.toNat =
        (nthDraw 0 s).toNat / 2 ^ 5 * 2 ^ 26 + (nthDraw 1 s).toNat / 2 ^ 6 ∧
      hi.toNat ≤ 0x001FFFFF ∧
      real53Value hi lo * 2 ^ 53 =
        ((nthDraw 0 s).toNat / 2 ^ 5 * 2 ^ 26 + (nthDraw 1 s).toNat / 2 ^ 6 : Nat) ∧
      0 ≤ real53Value hi lo ∧ real53Value hi lo < 1)

/-- NEXTUUID: its packet; unseeded NOT_SEEDED; seeded, four draws fill the 16 bytes in the order
`UUID_BYTE_ORDER`, the high nibble of byte 6 becomes 0100, the two high bits of byte 8 become 10,
every other bit is as drawn; answered OK with the bytes packed four to a word, first byte uppermost
(43_output.md R165). -/
def Obligations.NextuuidDeliversSixteenBytes : Prop :=
  encode .nextuuid = ⟨0x13000000#32, []⟩ ∧
  (∀ s : State, s.seeded = false →
    exec .nextuuid s = .next { s with rsp := s.rsp ++ [[0x00000003#32]] }) ∧
  (∀ s : State, s.seeded = true →
    ∃ b : UuidBuffer,
      b = uuidBytes Config.uuidByteOrder (nthDraw 0 s) (nthDraw 1 s) (nthDraw 2 s) (nthDraw 3 s) ∧
      exec .nextuuid s = .next { afterDraws 4 s with
        rsp := s.rsp ++ [[0x00000000#32,
          packWord b[0] b[1] b[2] b[3], packWord b[4] b[5] b[6] b[7],
          packWord b[8] b[9] b[10] b[11], packWord b[12] b[13] b[14] b[15]]] }) ∧
  (∀ (order : ByteOrder) (v0 v1 v2 v3 : Word),
    let b := uuidBytes order v0 v1 v2 v3
    (∀ d o : Fin 4, (d, o) ≠ (1, 2) → (d, o) ≠ (2, 0) →
      b.toList[4 * d.val + o.val]? =
        some ([v0, v1, v2, v3].getD d.val 0#32 |>.extractLsb'
          (match order with
            | .big => 24 - 8 * o.val
            | .little => 8 * o.val) 8)) ∧
    b[6] = ((match order with
      | .big => v1.extractLsb' 8 8
      | .little => v1.extractLsb' 16 8) &&& 0x0F#8) ||| 0x40#8 ∧
    b[8] = ((match order with
      | .big => v2.extractLsb' 24 8
      | .little => v2.extractLsb' 0 8) &&& 0x3F#8) ||| 0x80#8)

/-- The data words of NEXTUUID in terms of the draws, for both byte orders (43_output.md section 3,
the inference in R165). -/
def Obligations.UuidWordsInClosedForm : Prop :=
  ∀ v0 v1 v2 v3 : Word,
    uuidWords (uuidBytes .big v0 v1 v2 v3) =
      [v0, (v1 &&& 0xFFFF0FFF#32) ||| 0x00004000#32,
        (v2 &&& 0x3FFFFFFF#32) ||| 0x80000000#32, v3] ∧
    uuidWords (uuidBytes .little v0 v1 v2 v3) =
      [bswap v0, bswap ((v1 &&& 0xFF0FFFFF#32) ||| 0x00400000#32),
        bswap ((v2 &&& 0xFFFFFF3F#32) ||| 0x00000080#32), bswap v3]

/-- The UUID text: 36 characters, hyphens at 8, 13, 18, 23 and hexadecimal digits of the chosen case
elsewhere, the digits being the bytes' in order, high nibble first; position 14 is 4 and position
19 is 8, 9, a or b (43_output.md R166). -/
def Obligations.UuidTextShape : Prop :=
  (∀ (c : HexCase) (x : Byte),
    hexByte c x = [(hexDigits c).getD (x.toNat / 16) '?', (hexDigits c).getD (x.toNat % 16) '?']) ∧
  ∀ (c : HexCase) (order : ByteOrder) (v0 v1 v2 v3 : Word),
    let b := uuidBytes order v0 v1 v2 v3
    let t := uuidText c b
    t.length = 36 ∧
    (∀ k, k ∈ [8, 13, 18, 23] → t[k]? = some '-') ∧
    (∀ k, k < 36 → k ∉ [8, 13, 18, 23] → ∃ ch ∈ hexDigits c, t[k]? = some ch) ∧
    t.filter (fun ch => decide (ch ≠ '-')) = b.toList.flatMap (hexByte c) ∧
    t[14]? = some '4' ∧
    (∃ ch ∈ ((hexDigits c).drop 8).take 4, t[19]? = some ch)

/-- The frame of the four extraction commands on a seeded engine: with d draws (1, 1, 2, 4), `index`
goes up by d and no state word changes unless the block runs out, in which case the whole block is
twisted once and `index` wraps; nothing else changes but one response more (43_output.md
sections 3 and 4, 20_memory.md section 5). -/
def Obligations.ExtractionFrame : Prop :=
  ∀ (i : Instr) (s : State), IsExtraction i → s.seeded = true →
    ∃ t data, exec i s = .next t ∧
      t = { s with W := t.W, index := t.index, rsp := s.rsp ++ [0x00000000#32 :: data] } ∧
      data.length = dataWordCount i ∧
      (s.index.val + drawCount i ≤ 624 →
        t.W = s.W ∧ t.index.val = s.index.val + drawCount i) ∧
      (624 < s.index.val + drawCount i →
        t.W = twist s.W ∧ t.index.val = s.index.val + drawCount i - 624)

/-- The draws after a seeding: the draw made after t others is the tempered word t mod 624 of the
block twisted t / 624 + 1 times; after D ≥ 1 draws `index` is ((D - 1) mod 624) + 1 and exactly
ceil(D / 624) twists have been made (43_output.md section 4, the inference R168; 42_twist.md
section 1). -/
def Obligations.DrawSequenceFromAnExhaustedBlock : Prop :=
  ∀ s : State, s.index = 624 →
    (∀ t, nthDraw t s = temper (readW (twistPower (t / 624 + 1) s.W) (t % 624))) ∧
    (∀ d, 1 ≤ d →
      (afterDraws d s).index.val = (d - 1) % 624 + 1 ∧
      (afterDraws d s).W = twistPower ((d - 1) / 624 + 1) s.W)

/-- A full block of outputs reveals the whole state: two exhausted engines whose next 624 draws agree
hold the same state vector after the twist, and agree on every later draw (00_scope.md section 4,
"its state is invertible from a long enough output run"). -/
def Obligations.FullBlockOfDrawsDeterminesTheStream : Prop :=
  ∀ s t : State, s.index = 624 → t.index = 624 →
    (∀ n, n < 624 → nthDraw n s = nthDraw n t) →
    twist s.W = twist t.W ∧ ∀ n, nthDraw n s = nthDraw n t

/-! ## Programs of assembler lines -/

/-- THE MODEL'S CHOICE (DESIGN CHOICE, log entries 1 and 13), which 30_encoding.md R74 leaves open:
a line `.entropy es` puts its words after those already on ENT, and a program puts the packets and
reset requests of all its lines on REQ and RST, and the words of all its `.entropy` lines on ENT,
each in program order and after what stands there; nothing else changes. -/
def Obligations.ProgramStandsAtThePortsInOrder : Prop :=
  (∀ (s : State) (es : List Int),
    enqueueLine s (.entropy es) = { s with ent := s.ent ++ es.map hostWord }) ∧
  (∀ (s : State) (lines : List AsmLine),
    enqueue s lines = { s with
      req := s.req ++ lines.flatMap lineEvents
      ent := s.ent ++ lines.flatMap lineEntropy })
end

