-- ==== Sys2Proof/Laws/Decode.lean ====
section
/-! SUPPORT. The fields of a command word read back what was put there (30_encoding.md R62). -/

namespace Sys2Proof

@[simp] theorem opcField_commandWord (opc : BitVec 8) (len : Nat) :
    opcField (commandWord opc len) = opc := by
  apply BitVec.eq_of_getLsbD_eq
  intro i hi
  simp [opcField, commandWord, hi, show 24 + i < 32 by omega]

theorem commandWord_low (opc : BitVec 8) (len : Nat) :
    (commandWord opc len).extractLsb' 0 24 = BitVec.ofNat 24 len := by
  apply BitVec.eq_of_getLsbD_eq
  intro i hi
  simp [commandWord, hi, show i < 32 by omega]

@[simp] theorem lenField_commandWord (opc : BitVec 8) (len : Nat) :
    lenField (commandWord opc len) = len % 2 ^ 24 := by
  rw [lenField, commandWord_low, BitVec.toNat_ofNat]

end Sys2Proof
end

