-- ==== Sys2Proof/Laws/State.lean ====
section
/-! SUPPORT. What each named update does to each field of the state: one lemma per field per update,
true by definition, so that no proof unfolds a record update. -/

namespace Sys2Proof.Machine

/-! ### respond -/

@[simp] theorem respond_W (st : Status) (data : List Word) (s : State) :
    (respond st data s).W = s.W := rfl
@[simp] theorem respond_index (st : Status) (data : List Word) (s : State) :
    (respond st data s).index = s.index := rfl
@[simp] theorem respond_seeded (st : Status) (data : List Word) (s : State) :
    (respond st data s).seeded = s.seeded := rfl
@[simp] theorem respond_req (st : Status) (data : List Word) (s : State) :
    (respond st data s).req = s.req := rfl
@[simp] theorem respond_rsp (st : Status) (data : List Word) (s : State) :
    (respond st data s).rsp = s.rsp ++ [statusWord st :: data] := rfl
@[simp] theorem respond_ent (st : Status) (data : List Word) (s : State) :
    (respond st data s).ent = s.ent := rfl
@[simp] theorem respond_entDelivers (st : Status) (data : List Word) (s : State) :
    (respond st data s).entDelivers = s.entDelivers := rfl
@[simp] theorem respond_waiting (st : Status) (data : List Word) (s : State) :
    (respond st data s).waiting = s.waiting := rfl
@[simp] theorem respond_entDrawn (st : Status) (data : List Word) (s : State) :
    (respond st data s).entDrawn = s.entDrawn := rfl
@[simp] theorem respond_resets (st : Status) (data : List Word) (s : State) :
    (respond st data s).resets = s.resets := rfl

/-! ### raise -/

@[simp] theorem raise_W (st : Status) (s : State) : (raise st s).W = s.W := rfl
@[simp] theorem raise_index (st : Status) (s : State) : (raise st s).index = s.index := rfl
@[simp] theorem raise_seeded (st : Status) (s : State) : (raise st s).seeded = s.seeded := rfl
@[simp] theorem raise_req (st : Status) (s : State) : (raise st s).req = s.req := rfl
@[simp] theorem raise_rsp (st : Status) (s : State) :
    (raise st s).rsp = s.rsp ++ [[statusWord st]] := rfl
@[simp] theorem raise_ent (st : Status) (s : State) : (raise st s).ent = s.ent := rfl
@[simp] theorem raise_entDelivers (st : Status) (s : State) :
    (raise st s).entDelivers = s.entDelivers := rfl
@[simp] theorem raise_waiting (st : Status) (s : State) : (raise st s).waiting = s.waiting := rfl
@[simp] theorem raise_entDrawn (st : Status) (s : State) : (raise st s).entDrawn = s.entDrawn := rfl
@[simp] theorem raise_resets (st : Status) (s : State) : (raise st s).resets = s.resets := rfl

/-! ### commitSeed -/

@[simp] theorem commitSeed_W (w : Words) (s : State) : (commitSeed w s).W = w := rfl
@[simp] theorem commitSeed_index (w : Words) (s : State) : (commitSeed w s).index = 624 := rfl
@[simp] theorem commitSeed_seeded (w : Words) (s : State) : (commitSeed w s).seeded = true := rfl
@[simp] theorem commitSeed_req (w : Words) (s : State) : (commitSeed w s).req = s.req := rfl
@[simp] theorem commitSeed_rsp (w : Words) (s : State) : (commitSeed w s).rsp = s.rsp := rfl
@[simp] theorem commitSeed_ent (w : Words) (s : State) : (commitSeed w s).ent = s.ent := rfl
@[simp] theorem commitSeed_entDelivers (w : Words) (s : State) :
    (commitSeed w s).entDelivers = s.entDelivers := rfl
@[simp] theorem commitSeed_waiting (w : Words) (s : State) :
    (commitSeed w s).waiting = s.waiting := rfl
@[simp] theorem commitSeed_entDrawn (w : Words) (s : State) :
    (commitSeed w s).entDrawn = s.entDrawn := rfl
@[simp] theorem commitSeed_resets (w : Words) (s : State) :
    (commitSeed w s).resets = s.resets := rfl

/-! ### applyReset -/

@[simp] theorem applyReset_W (s : State) : (applyReset s).W = unspecifiedWords s.resets := rfl
@[simp] theorem applyReset_index (s : State) : (applyReset s).index = 624 := rfl
@[simp] theorem applyReset_seeded (s : State) : (applyReset s).seeded = false := rfl
@[simp] theorem applyReset_req (s : State) : (applyReset s).req = s.req := rfl
@[simp] theorem applyReset_rsp (s : State) : (applyReset s).rsp = s.rsp := rfl
@[simp] theorem applyReset_ent (s : State) : (applyReset s).ent = s.ent := rfl
@[simp] theorem applyReset_entDelivers (s : State) :
    (applyReset s).entDelivers = s.entDelivers := rfl
@[simp] theorem applyReset_waiting (s : State) : (applyReset s).waiting = none := rfl
@[simp] theorem applyReset_entDrawn (s : State) : (applyReset s).entDrawn = s.entDrawn := rfl
@[simp] theorem applyReset_resets (s : State) : (applyReset s).resets = s.resets + 1 := rfl

/-! ### consumeEntropy -/

@[simp] theorem consumeEntropy_W (n : Nat) (s : State) : (consumeEntropy n s).W = s.W := rfl
@[simp] theorem consumeEntropy_index (n : Nat) (s : State) :
    (consumeEntropy n s).index = s.index := rfl
@[simp] theorem consumeEntropy_seeded (n : Nat) (s : State) :
    (consumeEntropy n s).seeded = s.seeded := rfl
@[simp] theorem consumeEntropy_req (n : Nat) (s : State) : (consumeEntropy n s).req = s.req := rfl
@[simp] theorem consumeEntropy_rsp (n : Nat) (s : State) : (consumeEntropy n s).rsp = s.rsp := rfl
@[simp] theorem consumeEntropy_ent (n : Nat) (s : State) :
    (consumeEntropy n s).ent = s.ent.drop n := rfl
@[simp] theorem consumeEntropy_entDelivers (n : Nat) (s : State) :
    (consumeEntropy n s).entDelivers = s.entDelivers := rfl
@[simp] theorem consumeEntropy_waiting (n : Nat) (s : State) :
    (consumeEntropy n s).waiting = s.waiting := rfl
@[simp] theorem consumeEntropy_entDrawn (n : Nat) (s : State) :
    (consumeEntropy n s).entDrawn = s.entDrawn + (n - s.ent.length) := rfl
@[simp] theorem consumeEntropy_resets (n : Nat) (s : State) :
    (consumeEntropy n s).resets = s.resets := rfl

/-! ### waitForEntropy -/

@[simp] theorem waitForEntropy_W (s : State) : (waitForEntropy s).W = s.W := rfl
@[simp] theorem waitForEntropy_index (s : State) : (waitForEntropy s).index = s.index := rfl
@[simp] theorem waitForEntropy_seeded (s : State) : (waitForEntropy s).seeded = s.seeded := rfl
@[simp] theorem waitForEntropy_req (s : State) : (waitForEntropy s).req = s.req := rfl
@[simp] theorem waitForEntropy_rsp (s : State) : (waitForEntropy s).rsp = s.rsp := rfl
@[simp] theorem waitForEntropy_ent (s : State) : (waitForEntropy s).ent = [] := rfl
@[simp] theorem waitForEntropy_entDelivers (s : State) :
    (waitForEntropy s).entDelivers = s.entDelivers := rfl
@[simp] theorem waitForEntropy_waiting (s : State) :
    (waitForEntropy s).waiting = some (takenSoFar s ++ s.ent) := rfl
@[simp] theorem waitForEntropy_entDrawn (s : State) :
    (waitForEntropy s).entDrawn = s.entDrawn := rfl
@[simp] theorem waitForEntropy_resets (s : State) : (waitForEntropy s).resets = s.resets := rfl

/-! ### twistState -/

@[simp] theorem twistState_W (s : State) : (twistState s).W = twist s.W := rfl
@[simp] theorem twistState_index (s : State) : (twistState s).index = 0 := rfl
@[simp] theorem twistState_seeded (s : State) : (twistState s).seeded = s.seeded := rfl
@[simp] theorem twistState_req (s : State) : (twistState s).req = s.req := rfl
@[simp] theorem twistState_rsp (s : State) : (twistState s).rsp = s.rsp := rfl
@[simp] theorem twistState_ent (s : State) : (twistState s).ent = s.ent := rfl
@[simp] theorem twistState_entDelivers (s : State) :
    (twistState s).entDelivers = s.entDelivers := rfl
@[simp] theorem twistState_waiting (s : State) : (twistState s).waiting = s.waiting := rfl
@[simp] theorem twistState_entDrawn (s : State) : (twistState s).entDrawn = s.entDrawn := rfl
@[simp] theorem twistState_resets (s : State) : (twistState s).resets = s.resets := rfl

/-! ### readAdvance -/

@[simp] theorem readAdvance_W (s : State) : (readAdvance s).2.W = s.W := rfl
@[simp] theorem readAdvance_index (s : State) :
    (readAdvance s).2.index = advanceIndex s.index := rfl
@[simp] theorem readAdvance_seeded (s : State) : (readAdvance s).2.seeded = s.seeded := rfl
@[simp] theorem readAdvance_req (s : State) : (readAdvance s).2.req = s.req := rfl
@[simp] theorem readAdvance_rsp (s : State) : (readAdvance s).2.rsp = s.rsp := rfl
@[simp] theorem readAdvance_ent (s : State) : (readAdvance s).2.ent = s.ent := rfl
@[simp] theorem readAdvance_entDelivers (s : State) :
    (readAdvance s).2.entDelivers = s.entDelivers := rfl
@[simp] theorem readAdvance_waiting (s : State) : (readAdvance s).2.waiting = s.waiting := rfl
@[simp] theorem readAdvance_entDrawn (s : State) : (readAdvance s).2.entDrawn = s.entDrawn := rfl
@[simp] theorem readAdvance_resets (s : State) : (readAdvance s).2.resets = s.resets := rfl

/-! ### presentPacket -/

@[simp] theorem presentPacket_W (p : Packet) (s : State) : (presentPacket p s).W = s.W := rfl
@[simp] theorem presentPacket_index (p : Packet) (s : State) :
    (presentPacket p s).index = s.index := rfl
@[simp] theorem presentPacket_seeded (p : Packet) (s : State) :
    (presentPacket p s).seeded = s.seeded := rfl
@[simp] theorem presentPacket_req (p : Packet) (s : State) :
    (presentPacket p s).req = .packet p :: s.req := rfl
@[simp] theorem presentPacket_rsp (p : Packet) (s : State) : (presentPacket p s).rsp = s.rsp := rfl
@[simp] theorem presentPacket_ent (p : Packet) (s : State) : (presentPacket p s).ent = s.ent := rfl
@[simp] theorem presentPacket_entDelivers (p : Packet) (s : State) :
    (presentPacket p s).entDelivers = s.entDelivers := rfl
@[simp] theorem presentPacket_waiting (p : Packet) (s : State) :
    (presentPacket p s).waiting = none := rfl
@[simp] theorem presentPacket_entDrawn (p : Packet) (s : State) :
    (presentPacket p s).entDrawn = s.entDrawn := rfl
@[simp] theorem presentPacket_resets (p : Packet) (s : State) :
    (presentPacket p s).resets = s.resets := rfl

/-! ### reset -/

@[simp] theorem reset_W : State.reset.W = unspecifiedWords 0 := rfl
@[simp] theorem reset_index : State.reset.index = 624 := rfl
@[simp] theorem reset_seeded : State.reset.seeded = false := rfl
@[simp] theorem reset_req : State.reset.req = [] := rfl
@[simp] theorem reset_rsp : State.reset.rsp = [] := rfl
@[simp] theorem reset_ent : State.reset.ent = [] := rfl
@[simp] theorem reset_entDelivers : State.reset.entDelivers = true := rfl
@[simp] theorem reset_waiting : State.reset.waiting = none := rfl
@[simp] theorem reset_entDrawn : State.reset.entDrawn = 0 := rfl
@[simp] theorem reset_resets : State.reset.resets = 1 := rfl

end Sys2Proof.Machine
end

