-- ==== Sys2Proof/Laws/Operands.lean ====
section
/-! SUPPORT. What taking entropy words can do, and the bounds of E. -/

namespace Sys2Proof.Machine

theorem autoSeedWords_ge : 4 ≤ Config.autoSeedWords := Nat.le_add_right _ _

theorem autoSeedWords_le : Config.autoSeedWords ≤ keyLenMax := by
  have h := Config.autoSeedExtra.isLt
  simp only [Config.autoSeedWords, keyLenMax]
  omega

/-- What `takeEntropy` can do: either the words are at hand and it gives exactly those still
needed after those taken, or it gives nothing. -/
theorem takeEntropy_cases (e : Nat) (s : State) :
    (entropyAtHand (e - (takenSoFar s).length) s = true ∧
      takeEntropy e s =
        some (takenSoFar s ++ (List.range (e - (takenSoFar s).length)).map (nextEntropy s),
          consumeEntropy (e - (takenSoFar s).length) { s with waiting := none })) ∨
    (entropyAtHand (e - (takenSoFar s).length) s = false ∧ takeEntropy e s = none) := by
  unfold takeEntropy
  cases h : entropyAtHand (e - (takenSoFar s).length) s
  · exact .inr ⟨rfl, by simp [h]⟩
  · exact .inl ⟨rfl, by simp [h]⟩

/-- Words are at hand exactly when the environment delivers or has offered as many. -/
theorem entropyAtHand_iff (n : Nat) (s : State) :
    entropyAtHand n s = true ↔ s.entDelivers = true ∨ n ≤ s.ent.length := by
  simp [entropyAtHand]

/-- Offered words are taken as they were offered. -/
theorem nextEntropy_offered (s : State) (t : Nat) (h : t < s.ent.length) :
    nextEntropy s t = s.ent[t] := by
  simp [nextEntropy, h]

/-- What SEEDE does to the state, once: it seeds from its words, or waits. -/
theorem seedFromEntropy_cases (e : Nat) (s : State) :
    (∃ keys t, takeEntropy e s = some (keys, t) ∧ seedFromEntropy e s = seedFromKeys keys t) ∨
    (takeEntropy e s = none ∧ seedFromEntropy e s = waitForEntropy s) := by
  unfold seedFromEntropy
  cases h : takeEntropy e s with
  | none => exact .inr ⟨rfl, rfl⟩
  | some kt => exact .inl ⟨kt.1, kt.2, rfl, rfl⟩

end Sys2Proof.Machine
end

