-- ==== Sys2Proof/Laws/Ops.lean ====
section
/-! SUPPORT. What the shared operations can do, each said once: reads after writes, the counted
loop, the seeding procedures' frames. -/

namespace Sys2Proof.Machine

/-! ### State-vector access -/

@[simp] theorem readW_writeW_same (w : Words) (k : Nat) (v : Word) (h : k < 624) :
    readW (writeW w k v) k = v := by
  simp [readW, writeW, h]

@[simp] theorem readW_writeW_other (w : Words) (k j : Nat) (v : Word) (h : j ≠ k) :
    readW (writeW w k v) j = readW w j := by
  unfold readW writeW
  by_cases hj : j < 624 <;> by_cases hk : k < 624 <;> simp [hj, hk, Ne.symm h]

/-- A read after a write, in one equation. -/
theorem readW_writeW (w : Words) (k j : Nat) (v : Word) (h : k < 624) :
    readW (writeW w k v) j = if j = k then v else readW w j := by
  split
  · next e => subst e; exact readW_writeW_same w j v h
  · next e => exact readW_writeW_other w k j v e

theorem readW_beyond (w : Words) (k : Nat) (h : 624 ≤ k) : readW w k = 0#32 := by
  simp [readW, Nat.not_lt.mpr h]

/-- Two state vectors that read the same at every index are the same. -/
theorem words_ext {w v : Words} (h : ∀ k, k < 624 → readW w k = readW v k) : w = v := by
  apply Vector.ext
  intro k hk
  simpa [readW, hk] using h k hk

/-! ### The counted loop -/

section Loop
variable {σ : Type}

@[simp] theorem forRange_zero (a : Nat) (body : Nat → σ → σ) (s : σ) :
    forRange a 0 body s = s := rfl

theorem forRange_succ (a n : Nat) (body : Nat → σ → σ) (s : σ) :
    forRange a (n + 1) body s = forRange (a + 1) n body (body a s) := rfl

/-- The last iteration of a loop, taken apart. -/
theorem forRange_last (a n : Nat) (body : Nat → σ → σ) (s : σ) :
    forRange a (n + 1) body s = body (a + n) (forRange a n body s) := by
  induction n generalizing a s with
  | zero => rfl
  | succ n ih =>
    rw [forRange_succ, ih, forRange_succ]
    congr 1
    omega

/-- A loop in two parts. -/
theorem forRange_add (a m n : Nat) (body : Nat → σ → σ) (s : σ) :
    forRange a (m + n) body s = forRange (a + m) n body (forRange a m body s) := by
  induction m generalizing a s with
  | zero => simp
  | succ m ih =>
    rw [show m + 1 + n = (m + n) + 1 by omega, forRange_succ, ih, forRange_succ]
    congr 1
    omega

/-- The loop rule: what holds before the loop and is carried from each counter to the next holds
after it. -/
theorem forRange_induct (a n : Nat) (body : Nat → σ → σ) (s : σ) (P : Nat → σ → Prop)
    (start : P a s) (next : ∀ k t, a ≤ k → k < a + n → P k t → P (k + 1) (body k t)) :
    P (a + n) (forRange a n body s) := by
  induction n with
  | zero => exact start
  | succ n ih =>
    rw [forRange_last]
    exact next (a + n) _ (by omega) (by omega)
      (ih fun k t ha hk hp => next k t ha (by omega) hp)

end Loop

/-! ### The seed scheduler -/

/-- A step of the scalar path writes its own word only. -/
theorem scalarStep_frame (i k : Nat) (w : Words) (h : k ≠ i) :
    readW (scalarStep i w) k = readW w k := readW_writeW_other _ _ _ _ h

theorem scalarStep_value (i : Nat) (w : Words) (h : i < 624) :
    readW (scalarStep i w) i = initMult * mix30 (readW w (i - 1)) + BitVec.ofNat 32 i :=
  readW_writeW_same _ _ _ h

@[simp] theorem wrapJ_w (n : Nat) (m : Mixing) : (wrapJ n m).w = m.w := by
  unfold wrapJ; split <;> rfl

@[simp] theorem wrapJ_i (n : Nat) (m : Mixing) : (wrapJ n m).i = m.i := by
  unfold wrapJ; split <;> rfl

@[simp] theorem wrapI_j (m : Mixing) : (wrapI m).j = m.j := by
  unfold wrapI; split <;> rfl

/-- The wrap of `i` touches no word but `W[0]`. -/
theorem wrapI_frame (m : Mixing) (k : Nat) (h : k ≠ 0) : readW (wrapI m).w k = readW m.w k := by
  unfold wrapI
  split
  · exact readW_writeW_other _ _ _ _ h
  · rfl

theorem wrapI_i (m : Mixing) : (wrapI m).i = if 624 ≤ m.i then 1 else m.i := by
  unfold wrapI; split <;> rfl

/-- The counter `i` goes up by one and wraps from 623 to 1, in either pass. -/
theorem pass1Step_i (keys : List Word) (m : Mixing) :
    (pass1Step keys m).i = if 624 ≤ m.i + 1 then 1 else m.i + 1 := by
  unfold pass1Step
  rw [wrapJ_i, wrapI_i]

theorem pass2Step_i (m : Mixing) : (pass2Step m).i = if 624 ≤ m.i + 1 then 1 else m.i + 1 := by
  unfold pass2Step
  rw [wrapI_i]

/-- Whatever the keys, the array path ends with `W[0]` forced (41_seeding.md R113). -/
theorem arrayInit_word_zero (w : Words) (keys : List Word) :
    readW (arrayInit w keys) 0 = 0x80000000#32 := by
  unfold arrayInit
  exact readW_writeW_same _ _ _ (by decide)

/-! ### The twist -/

/-- A twist step writes word `k` only. -/
theorem twistAt_frame (w : Words) (k next src j : Nat) (h : j ≠ k) :
    readW (twistAt w k next src) j = readW w j := readW_writeW_other _ _ _ _ h

/-- A twist step computes TwistWord of the three words it reads (40_arithmetic.md R102). -/
theorem twistAt_value (w : Words) (k next src : Nat) (h : k < 624) :
    readW (twistAt w k next src) k = twistWord (readW w k) (readW w next) (readW w src) :=
  readW_writeW_same _ _ _ h

end Sys2Proof.Machine
end

