-- ==== Sys2Proof/Laws/Output.lean ====
section
/-! SUPPORT. What a draw and the seeded gate can do. -/

namespace Sys2Proof.Machine

theorem whenSeeded_true (op : State → State) (s : State) (h : s.seeded = true) :
    whenSeeded op s = op s := by simp [whenSeeded, h]

theorem whenSeeded_false (op : State → State) (s : State) (h : s.seeded = false) :
    whenSeeded op s = raise .notSeeded s := by simp [whenSeeded, h]

theorem exhausted_iff (s : State) : exhausted s = true ↔ s.index = 624 := by
  simp [exhausted, Fin.ext_iff]

/-- Exactly one of the two predicates holds (10_state.md R24). -/
theorem available_eq_not_exhausted (s : State) : available s = !exhausted s := by
  have := s.index.isLt
  unfold available exhausted
  rw [Bool.eq_iff_iff]
  simp
  omega

/-- The increment never wraps where it is applied (10_state.md R22). -/
theorem advanceIndex_val (i : Fin 625) (h : i.val < 624) : (advanceIndex i).val = i.val + 1 := by
  simp only [advanceIndex, Fin.ofNat]
  omega

/-- Before the read the block is available. -/
theorem regenerate_index_lt (s : State) : (regenerate s).index.val < 624 := by
  have := s.index.isLt
  unfold regenerate
  split
  · simp
  · next h => simp [exhausted] at h; omega

/-- A draw leaves everything but `W` and `index` as it was. -/
theorem draw_frame (s : State) :
    (draw s).2 = { s with W := (draw s).2.W, index := (draw s).2.index } := by
  unfold draw regenerate readAdvance
  split <;> rfl

@[simp] theorem draw_seeded (s : State) : (draw s).2.seeded = s.seeded := by rw [draw_frame]
@[simp] theorem draw_req (s : State) : (draw s).2.req = s.req := by rw [draw_frame]
@[simp] theorem draw_rsp (s : State) : (draw s).2.rsp = s.rsp := by rw [draw_frame]
@[simp] theorem draw_ent (s : State) : (draw s).2.ent = s.ent := by rw [draw_frame]
@[simp] theorem draw_entDelivers (s : State) : (draw s).2.entDelivers = s.entDelivers := by
  rw [draw_frame]
@[simp] theorem draw_waiting (s : State) : (draw s).2.waiting = s.waiting := by rw [draw_frame]
@[simp] theorem draw_entDrawn (s : State) : (draw s).2.entDrawn = s.entDrawn := by rw [draw_frame]
@[simp] theorem draw_resets (s : State) : (draw s).2.resets = s.resets := by rw [draw_frame]

/-- What a draw can do: twist first if the block is exhausted, then read and advance. -/
theorem draw_cases (s : State) :
    (s.index.val = 624 ∧ draw s = readAdvance (twistState s)) ∨
    (s.index.val < 624 ∧ draw s = readAdvance s) := by
  have := s.index.isLt
  unfold draw regenerate
  by_cases h : s.index.val = 624
  · exact .inl ⟨h, by simp [exhausted, h]⟩
  · exact .inr ⟨by omega, by simp [exhausted, h]⟩

/-! ### The meanings, as the state they give -/

theorem exec_seeds (seed : Word) (s : State) :
    exec (.seeds seed) s = .next (respond .ok [] (commitSeed (scalarInit s.W seed) s)) := rfl
theorem exec_seeda_nil (s : State) : exec (.seeda []) s = .next (raise .invalidArgument s) := rfl
theorem exec_seeda_cons (k : Word) (ks : List Word) (s : State) :
    exec (.seeda (k :: ks)) s = .next (seedFromKeys (k :: ks) s) := rfl
theorem exec_seede (s : State) :
    exec .seede s = .next (seedFromEntropy Config.autoSeedWords s) := rfl
theorem exec_next32 (s : State) : exec .next32 s = .next (whenSeeded deliverDraw s) := rfl
theorem exec_nextr32 (s : State) : exec .nextr32 s = .next (whenSeeded deliverDraw s) := rfl
theorem exec_nextr53 (s : State) : exec .nextr53 s = .next (whenSeeded deliverReal53 s) := rfl
theorem exec_nextuuid (s : State) :
    exec .nextuuid s = .next (whenSeeded (deliverUuid Config.uuidByteOrder) s) := rfl

/-! ### The next action -/

/-- What the engine can do next, every case. -/
theorem nextAction_cases (s : State) :
    (∃ taken rest, s.waiting = some taken ∧ s.req = .reset :: rest ∧
      nextAction s = (.enterReset, { s with req := rest })) ∨
    (∃ taken, s.waiting = some taken ∧ (∀ rest, s.req ≠ .reset :: rest) ∧
      nextAction s = (.run .seede, s)) ∨
    (s.waiting = none ∧ s.req = [] ∧ nextAction s = (.hold, s)) ∨
    (∃ p rest, s.waiting = none ∧ s.req = .packet p :: rest ∧
      nextAction s = (packetAction p, { s with req := rest })) ∨
    (∃ rest, s.waiting = none ∧ s.req = .reset :: rest ∧
      nextAction s = (.enterReset, { s with req := rest })) ∨
    (∃ p rest, s.waiting = none ∧ s.req = .resetDuring p :: rest ∧
      nextAction s = (.abandon p, { s with req := rest })) := by
  rcases s with ⟨w, ix, sd, req, rsp, ent, del, waiting, drawn, resets⟩
  cases waiting with
  | none =>
    rcases req with _ | ⟨p | _ | p, rest⟩
    · exact .inr (.inr (.inl ⟨rfl, rfl, rfl⟩))
    · exact .inr (.inr (.inr (.inl ⟨p, rest, rfl, rfl, rfl⟩)))
    · exact .inr (.inr (.inr (.inr (.inl ⟨rest, rfl, rfl, rfl⟩))))
    · exact .inr (.inr (.inr (.inr (.inr ⟨p, rest, rfl, rfl, rfl⟩))))
  | some taken =>
    rcases req with _ | ⟨p | _ | p, rest⟩
    · exact .inr (.inl ⟨taken, rfl, by simp, rfl⟩)
    · exact .inr (.inl ⟨taken, rfl, by simp, rfl⟩)
    · exact .inl ⟨taken, rest, rfl, rfl, rfl⟩
    · exact .inr (.inl ⟨taken, rfl, by simp, rfl⟩)

end Sys2Proof.Machine
end

