-- ==== Sys2Proof/Laws/Exec.lean ====
section
/-! SUPPORT. What an instruction can do, said once: every case of a next state, with its guard. -/

namespace Sys2Proof.Machine

/-- The meaning of an extraction command, either refused or carried out. -/
theorem whenSeeded_cases (op : State → State) (s : State) :
    (s.seeded = false ∧ whenSeeded op s = raise .notSeeded s) ∨
    (s.seeded = true ∧ whenSeeded op s = op s) := by
  cases h : s.seeded
  · exact .inl ⟨rfl, whenSeeded_false op s h⟩
  · exact .inr ⟨rfl, whenSeeded_true op s h⟩

/-- Every case in which `exec` answers a next state. -/
theorem exec_cases {i : Instr} {s t : State} (h : exec i s = .next t) :
    (∃ seed, i = .seeds seed ∧ t = respond .ok [] (commitSeed (scalarInit s.W seed) s)) ∨
    (i = .seeda [] ∧ t = raise .invalidArgument s) ∨
    (∃ k ks, i = .seeda (k :: ks) ∧ t = seedFromKeys (k :: ks) s) ∨
    (∃ keys u, i = .seede ∧ takeEntropy Config.autoSeedWords s = some (keys, u) ∧
      t = seedFromKeys keys u) ∨
    (i = .seede ∧ takeEntropy Config.autoSeedWords s = none ∧ t = waitForEntropy s) ∨
    (IsExtraction i ∧ s.seeded = false ∧ t = raise .notSeeded s) ∨
    ((i = .next32 ∨ i = .nextr32) ∧ s.seeded = true ∧ t = deliverDraw s) ∨
    (i = .nextr53 ∧ s.seeded = true ∧ t = deliverReal53 s) ∨
    (i = .nextuuid ∧ s.seeded = true ∧ t = deliverUuid Config.uuidByteOrder s) := by
  cases i with
  | seeds seed => cases h; exact .inl ⟨seed, rfl, rfl⟩
  | seeda keys =>
    cases keys with
    | nil => cases h; exact .inr (.inl ⟨rfl, rfl⟩)
    | cons k ks => cases h; exact .inr (.inr (.inl ⟨k, ks, rfl, rfl⟩))
  | seede =>
    have e := Host.Outcome.next.inj (exec_seede s ▸ h)
    rcases seedFromEntropy_cases Config.autoSeedWords s with ⟨keys, u, ht, hs⟩ | ⟨ht, hs⟩
    · exact .inr (.inr (.inr (.inl ⟨keys, u, rfl, ht, by rw [← e, hs]⟩)))
    · exact .inr (.inr (.inr (.inr (.inl ⟨rfl, ht, by rw [← e, hs]⟩))))
  | next32 =>
    cases h
    rcases whenSeeded_cases deliverDraw s with ⟨hs, e⟩ | ⟨hs, e⟩
    · exact .inr (.inr (.inr (.inr (.inr (.inl ⟨.inl rfl, hs, e⟩)))))
    · exact .inr (.inr (.inr (.inr (.inr (.inr (.inl ⟨.inl rfl, hs, e⟩))))))
  | nextr32 =>
    cases h
    rcases whenSeeded_cases deliverDraw s with ⟨hs, e⟩ | ⟨hs, e⟩
    · exact .inr (.inr (.inr (.inr (.inr (.inl ⟨.inr (.inl rfl), hs, e⟩)))))
    · exact .inr (.inr (.inr (.inr (.inr (.inr (.inl ⟨.inr rfl, hs, e⟩))))))
  | nextr53 =>
    cases h
    rcases whenSeeded_cases deliverReal53 s with ⟨hs, e⟩ | ⟨hs, e⟩
    · exact .inr (.inr (.inr (.inr (.inr (.inl ⟨.inr (.inr (.inl rfl)), hs, e⟩)))))
    · exact .inr (.inr (.inr (.inr (.inr (.inr (.inr (.inl ⟨rfl, hs, e⟩)))))))
  | nextuuid =>
    cases h
    rcases whenSeeded_cases (deliverUuid Config.uuidByteOrder) s with ⟨hs, e⟩ | ⟨hs, e⟩
    · exact .inr (.inr (.inr (.inr (.inr (.inl ⟨.inr (.inr (.inr rfl)), hs, e⟩)))))
    · exact .inr (.inr (.inr (.inr (.inr (.inr (.inr (.inr ⟨rfl, hs, e⟩)))))))

end Sys2Proof.Machine
end

