-- ==== Sys2Proof/Laws/PerInstr.lean ====
section
/-! SUPPORT. Statements about every instruction as it is written: the packet an instruction encodes
to has exactly the length its command word asks for (30_encoding.md R66). -/

namespace Sys2Proof.Laws.PacketLength

/-- The encoded packet of a well-formed instruction has the operand words its own command word
requires. -/
def Statement (i : Instr) : Prop :=
  i.WellFormed = true → operandsRequired (encode i).cmd = (encode i).operands.length

theorem seeds (seed : Word) : Statement (.seeds seed) := by
  intro _; simp [operandsRequired, encode, opcodeOf, operandsOf]

theorem seeda (keys : List Word) : Statement (.seeda keys) := by
  intro h
  have bound : keys.length ≤ 16777215 := of_decide_eq_true h
  simp [operandsRequired, encode, opcodeOf, operandsOf, lenOf]
  omega

theorem seede : Statement .seede := by
  intro _; simp [operandsRequired, encode, opcodeOf, operandsOf]

theorem next32 : Statement .next32 := by
  intro _; simp [operandsRequired, encode, opcodeOf, operandsOf]

theorem nextr32 : Statement .nextr32 := by
  intro _; simp [operandsRequired, encode, opcodeOf, operandsOf]

theorem nextr53 : Statement .nextr53 := by
  intro _; simp [operandsRequired, encode, opcodeOf, operandsOf]

theorem nextuuid : Statement .nextuuid := by
  intro _; simp [operandsRequired, encode, opcodeOf, operandsOf]

end Sys2Proof.Laws.PacketLength
end

