-- ==== Sys2Proof/Tests/Slice0.lean ====
section
/-! SUPPORT. The model's own tests: expected values are the spec's (95_test_vectors.md,
96_test_programs.md); and for every statement with hypotheses a witness that meets them. -/

namespace Sys2Proof.Tests
open Sys2Proof Sys2Proof.Machine

/-! ## Well-formedness and decoding -/

/-- A SEEDA of n zero words is well formed exactly when LEN can count them. -/
theorem wellFormed_zeros (n : Nat) :
    Instr.WellFormed (.seeda (List.replicate n 0#32)) = decide (n ≤ keyLenMax) := by
  simp [Instr.WellFormed]

/-- One key too many for the 24-bit field LEN: refused. -/
theorem test_wellFormed_refuses_too_many_keys :
    Instr.WellFormed (.seeda (List.replicate 16777216 0#32)) = false := by
  rw [wellFormed_zeros]
  decide

theorem test_wellFormed_accepts_the_longest_key :
    Instr.WellFormed (.seeda (List.replicate 16777215 0#32)) = true := by
  rw [wellFormed_zeros]
  decide

/-- OPC 0000_0001, LEN 0, then the seed word (30_encoding.md R64, R68). -/
theorem test_decode_seeds :
    decode ⟨0b00000001000000000000000000000000#32, [0b10000000000000000001010101110001#32]⟩ =
      .ok (.seeds 0x80001571#32) := by decide

/-- OPC 0000_0010, LEN 2, two key words (30_encoding.md R65, R68). -/
theorem test_decode_seeda :
    decode ⟨0b00000010000000000000000000000010#32, [0x123#32, 0x234#32]⟩ =
      .ok (.seeda [0x123#32, 0x234#32]) := by decide

/-- OPC 0000_0011, LEN 0 (30_encoding.md R63, R68). -/
theorem test_decode_seede :
    decode ⟨0b00000011000000000000000000000000#32, []⟩ = .ok .seede := by decide

/-- OPC 0001_0000, LEN 0. -/
theorem test_decode_next32 :
    decode ⟨0b00010000000000000000000000000000#32, []⟩ = .ok .next32 := by decide

/-- OPC 0001_0001, LEN 0. -/
theorem test_decode_nextr32 :
    decode ⟨0b00010001000000000000000000000000#32, []⟩ = .ok .nextr32 := by decide

/-- OPC 0001_0010, LEN 0. -/
theorem test_decode_nextr53 :
    decode ⟨0b00010010000000000000000000000000#32, []⟩ = .ok .nextr53 := by decide

/-- OPC 0001_0011, LEN 0. -/
theorem test_decode_nextuuid :
    decode ⟨0b00010011000000000000000000000000#32, []⟩ = .ok .nextuuid := by decide

/-- 95_test_vectors.md section 2.2: E3, E5, E11, E20, E22, E27. -/
theorem test_decode_rejects :
    decode ⟨0x01000000#32, []⟩ = .error .wrongLength ∧
    decode ⟨0x01000001#32, [5#32]⟩ = .error .reservedLen ∧
    decode ⟨0x02000000#32, [5#32]⟩ = .error .wrongLength ∧
    decode ⟨0x12800000#32, []⟩ = .error .reservedLen ∧
    decode ⟨0x04000000#32, []⟩ = .error .unassignedOpcode ∧
    decode ⟨0x00000000#32, [0x10000000#32]⟩ = .error .unassignedOpcode := by decide

/-- The table's words: operand words beyond the table's bits are zero. -/
theorem test_decodeTableWord :
    decodeTableWord 32 0x01000000 = some (.seeds 0#32) ∧
    decodeTableWord 32 0x02000002 = some (.seeda [0#32, 0#32]) ∧
    decodeTableWord 64 0x0000157101000000 = some (.seeds 0x1571#32) ∧
    decodeTableWord 32 0x10000001 = none := by decide

/-! ## Meanings -/

/-- What one step answers on RSP. -/
def answers (s : State) : Option (List (List Word)) :=
  match step s with
  | .next t => some t.rsp
  | .fault _ => none
  | .refused _ => none

/-- An engine as seeding leaves it but with a chosen `W` and `index`. -/
def engine (w : Words) (ix : Fin 625) : State :=
  { State.reset with W := w, index := ix, seeded := true }

/-- All words zero but `W[k]`. -/
def oneWord (k : Nat) (v : Word) : Words := writeW (Vector.replicate 624 0#32) k v

/-- 41_seeding.md R110: `SEEDS 5489` gives these words. -/
theorem test_seeds_words :
    readW (scalarInit State.reset.W 5489#32) 0 = 0x00001571#32 ∧
    readW (scalarInit State.reset.W 5489#32) 1 = 0x4D98EE96#32 ∧
    readW (scalarInit State.reset.W 5489#32) 2 = 0xAF25F095#32 := by decide +kernel

/-- 95_test_vectors.md section 2.4: the first iteration of pass 1 for the reference keys. -/
theorem test_seeda_first_iteration :
    readW (pass1After [0x123#32, 0x234#32, 0x345#32, 0x456#32] 1 State.reset.W).w 1 =
      0xFF890AD4#32 := by decide +kernel

/-- 96_test_programs.md P5 steps 5 and 7: no key, and a key too many. -/
theorem test_seeda_without_keys :
    answers (presentPacket ⟨0x02000000#32, []⟩ State.reset) = some [[1#32]] ∧
    answers (presentPacket ⟨0x02000000#32, [5#32]⟩ State.reset) = some [[2#32]] := by
  decide +kernel

/-- 96_test_programs.md P6 with E = 4: offered words are taken first to last and only four. -/
theorem test_seede_takes_offered_words :
    (takeEntropy 4 { State.reset with ent := [1#32, 2#32, 3#32, 4#32, 5#32] }).map
      (fun r => (r.1, r.2.ent)) = some ([1#32, 2#32, 3#32, 4#32], [5#32]) := by decide +kernel

/-- 70_reset_and_hazards.md R229: with too few words SEEDE is not answered. -/
theorem test_seede_waits :
    (seedFromEntropy 4 { State.reset with ent := [7#32], entDelivers := false }).waiting =
      some [7#32] ∧
    (seedFromEntropy 4 { State.reset with ent := [7#32], entDelivers := false }).rsp = [] := by
  decide +kernel

/-- 40_arithmetic.md R102 and 95_test_vectors.md section 2.1. -/
theorem test_twistWord :
    twistWord 0x4D98EE96#32 0xAF25F095#32 0x6707ABF4#32 = 0xE99DE361#32 ∧
    twistWord 0x7FFFFFFF#32 0x80000000#32 0x12345678#32 = 0x12345678#32 := by decide

/-- 95_test_vectors.md section 2.5, synthetic state `W[1]` = 1: X[0] and X[1]. -/
theorem test_twist_one_word :
    readW (twist (oneWord 1 1#32)) 0 = 0x9908B0DF#32 ∧
    readW (twist (oneWord 1 1#32)) 1 = 0#32 := by decide +kernel

/-- 43_output.md R161 and 95_test_vectors.md section 2.6. -/
theorem test_temper :
    temper 0x9B0AFA27#32 = 0xD091BB5C#32 ∧ temper 0xFFFFFFFF#32 = 0x6FE01BF8#32 ∧
    temper 0x00000001#32 = 0x00400091#32 ∧ temper 0xDEADBEEF#32 = 0xE016575D#32 := by decide

/-- 43_output.md R160: an available block is read at `index`; Temper of 0x9B0AFA27. -/
theorem test_next32_reads_at_index :
    answers (presentPacket ⟨0x10000000#32, []⟩ (engine (oneWord 3 0x9B0AFA27#32) 3)) =
      some [[0#32, 0xD091BB5C#32]] := by decide +kernel

/-- 95_test_vectors.md X1: unseeded. -/
theorem test_next32_unseeded :
    answers (presentPacket ⟨0x10000000#32, []⟩ State.reset) = some [[3#32]] := by decide +kernel

/-- The numerator is the draw itself (43_output.md R163). -/
theorem test_nextr32 :
    answers (presentPacket ⟨0x11000000#32, []⟩ (engine (oneWord 0 0x9B0AFA27#32) 0)) =
      some [[0#32, 0xD091BB5C#32]] := by decide +kernel

/-- 96_test_programs.md section 3: draws 0xD091BB5C, 0x22AE9EF6, and the greatest. -/
theorem test_nextr53 :
    numeratorWords (numerator53 0xD091BB5C#32 0x22AE9EF6#32) = [0x001A1237#32, 0x688ABA7B#32] ∧
    numeratorWords (numerator53 0xFFFFFFFF#32 0xFFFFFFFF#32) = [0x001FFFFF#32, 0xFFFFFFFF#32] := by
  decide

/-- 96_test_programs.md section 3, the UUID of `SEEDS 5489` in both byte orders. -/
theorem test_nextuuid :
    uuidWords (uuidBytes .big 0xD091BB5C#32 0x22AE9EF6#32 0xE7E1FAEE#32 0xD5C31F79#32) =
      [0xD091BB5C#32, 0x22AE4EF6#32, 0xA7E1FAEE#32, 0xD5C31F79#32] ∧
    uuidWords (uuidBytes .little 0xD091BB5C#32 0x22AE9EF6#32 0xE7E1FAEE#32 0xD5C31F79#32) =
      [0x5CBB91D0#32, 0xF69E4E22#32, 0xAEFAE1E7#32, 0x791FC3D5#32] := by decide

/-- 96_test_programs.md section 3: the text of the third hypothetical row. -/
theorem test_uuid_text :
    uuidText .lower (uuidBytes .big 0x00112233#32 0x44556677#32 0x8899AABB#32 0xCCDDEEFF#32) =
      ['0', '0', '1', '1', '2', '2', '3', '3', '-', '4', '4', '5', '5', '-', '4', '6', '7', '7',
       '-', '8', '8', '9', '9', '-', 'a', 'a', 'b', 'b', 'c', 'c', 'd', 'd', 'e', 'e', 'f', 'f'] := by
  decide

/-- 95_test_vectors.md X7: reset forgets the seeding and answers nothing. -/
theorem test_reset_unseeds :
    (applyReset (engine (oneWord 0 1#32) 5)).seeded = false ∧
    answers { engine (oneWord 0 1#32) 5 with req := [.reset] } = some [] := by decide +kernel

/-- In [SEEDE, .entropy, SEEDE] all words stand on ENT before the first step (log entry 13). -/
theorem test_entropy_line_between_two_seedes :
    (enqueue State.reset [.seede, .entropy [1, -1], .seede]).ent = [1#32, 0xFFFFFFFF#32] ∧
    (enqueue State.reset [.seede, .entropy [1, -1], .seede]).req.length = 2 := by decide +kernel

/-! ## Witnesses: for each statement with hypotheses, values that meet them -/

/-- The reset engine with one packet on REQ. -/
def offered (p : Packet) : State := { State.reset with req := [.packet p] }

/-- A seeded engine at the given index, all state words the same. -/
def seededAt (ix : Fin 625) : State := engine (Vector.replicate 624 0x80000000#32) ix

/-- An engine whose SEEDE waits with no word and gets none. -/
def starved : State := { State.reset with waiting := some [], entDelivers := false }

theorem witness_DecodeOfEncode :
    Instr.WellFormed (.seeds 5489#32) = true ∧
    Instr.WellFormed (.seeda (List.replicate 16777215 0#32)) = true :=
  ⟨rfl, test_wellFormed_accepts_the_longest_key⟩

theorem witness_EncodeOfDecode : decode ⟨0x02000001#32, [7#32]⟩ = .ok (.seeda [7#32]) := by decide

theorem witness_AssemblerLinesDenoteTheirPackets :
    (List.replicate 16777215 (5 : Int)).length ≤ keyLenMax ∧
    assemble (.seeds (-1)) = some ⟨0x01000000#32, [0xFFFFFFFF#32]⟩ ∧
    State.reset.waiting = none ∧ State.reset.ent = [] ∧
    (List.replicate Config.autoSeedWords (5 : Int)).length = Config.autoSeedWords := by
  refine ⟨?_, by decide, rfl, rfl, List.length_replicate⟩
  rw [List.length_replicate]
  decide

/-- Each of the five ways to be malformed, and a packet that is not. -/
theorem witness_MalformedPacketIsAnsweredIllegalCommand :
    MalformedPacket ⟨0x14000000#32, []⟩ ∧ MalformedPacket ⟨0x13000001#32, []⟩ ∧
    MalformedPacket ⟨0x01000000#32, []⟩ ∧ MalformedPacket ⟨0x02000001#32, []⟩ ∧
    MalformedPacket ⟨0x03000000#32, [0#32]⟩ ∧ ¬ MalformedPacket ⟨0x13000000#32, []⟩ ∧
    (offered ⟨0x14000000#32, []⟩).waiting = none ∧
    (offered ⟨0x14000000#32, []⟩).req = [.packet ⟨0x14000000#32, []⟩] := by
  refine ⟨?_, ?_, ?_, ?_, ?_, ?_, rfl, rfl⟩ <;> (unfold MalformedPacket; decide)

theorem witness_InvalidArgumentOnlyForSeedaWithoutKeys :
    exec (.seeda []) State.reset = .next (raise .invalidArgument State.reset) ∧
    (raise .invalidArgument State.reset).rsp = State.reset.rsp ++ [[0x00000001#32]] := ⟨rfl, rfl⟩

theorem witness_NotSeededExactlyForUnseededExtraction :
    IsExtraction .nextuuid ∧ State.reset.seeded = false ∧
    exec .nextuuid State.reset = .next (raise .notSeeded State.reset) ∧
    (raise .notSeeded State.reset).rsp = State.reset.rsp ++ [[0x00000003#32]] :=
  ⟨.inr (.inr (.inr rfl)), rfl, rfl, rfl⟩

theorem witness_ErrorAnswerChangesNothing :
    (offered ⟨0x02000000#32, []⟩).waiting = none ∧
    (offered ⟨0x02000000#32, []⟩).req = [.packet ⟨0x02000000#32, []⟩] ∧
    step (offered ⟨0x02000000#32, []⟩) = .next (raise .invalidArgument State.reset) ∧
    (raise .invalidArgument State.reset).rsp =
      (offered ⟨0x02000000#32, []⟩).rsp ++ [[statusWord .invalidArgument]] :=
  ⟨rfl, rfl, rfl, rfl⟩

/-- Each condition of the priority order, with a packet that meets it. -/
theorem witness_ErrorPriorityOrder :
    decode ⟨0x02000000#32, []⟩ = .ok (.seeda []) ∧
    decode ⟨0x12000000#32, []⟩ = .ok .nextr53 ∧ (offered ⟨0x12000000#32, []⟩).seeded = false ∧
    decode ⟨0x03000000#32, []⟩ = .ok .seede ∧ (offered ⟨0x03000000#32, []⟩).entDelivers = true ∧
    (offered ⟨0x10000001#32, []⟩).req = [.packet ⟨0x10000001#32, []⟩] ∧
    (offered ⟨0x02000000#32, [0x5#32]⟩).req = [.packet ⟨0x02000000#32, [0x5#32]⟩] := by
  refine ⟨?_, ?_, rfl, ?_, rfl, rfl, rfl⟩ <;> decide

theorem witness_OneResponseForEachPacket :
    (offered ⟨0x03000000#32, []⟩).waiting = none ∧
    (offered ⟨0x03000000#32, []⟩).req = [.packet ⟨0x03000000#32, []⟩] := ⟨rfl, rfl⟩

theorem witness_StepRunsTheDecodedInstruction :
    (offered ⟨0x01000000#32, [9#32]⟩).waiting = none ∧
    (offered ⟨0x01000000#32, [9#32]⟩).req = [.packet ⟨0x01000000#32, [9#32]⟩] ∧
    decode ⟨0x01000000#32, [9#32]⟩ = .ok (.seeds 9#32) ∧
    starved.waiting = some [] ∧ (∀ rest, starved.req ≠ .reset :: rest) :=
  ⟨rfl, rfl, by decide, rfl, by intro rest h; cases h⟩

theorem witness_ResetAbandonsAndUnseeds :
    ({ starved with req := [.reset], ent := [7#32] } : State).req = [.reset] ∧
    ({ State.reset with req := [.resetDuring ⟨0x03000000#32, []⟩] } : State).waiting = none ∧
    State.reset.waiting = none ∧ State.reset.req = [] := ⟨rfl, rfl, rfl, rfl⟩

/-- The reset engine meets the invariant and its step is a next state; so does a seeded one. -/
theorem witness_StepKeepsTheInvariant :
    Inv State.reset ∧ step State.reset = .next State.reset ∧ Inv (seededAt 624) := by
  refine ⟨⟨fun _ => rfl, fun h => ?_, fun _ h => ?_, fun _ h => ?_⟩, rfl,
    ⟨fun h => ?_, fun _ => .inl ?_, fun _ h => ?_, fun _ h => ?_⟩⟩
  · cases h
  · cases h
  · cases h
  · cases h
  · decide +kernel
  · cases h
  · cases h

theorem witness_UnseededStateVectorIsNeverObserved : State.reset.seeded = false := rfl

theorem witness_SharedFunctionsBitByBit :
    (2 ≤ 31 ∧ 31 < 32) ∧ (1#32).getLsbD 0 = true ∧ (2#32).getLsbD 0 = false := by decide

theorem witness_SeedsFillsTheStateVector : 1 ≤ 623 ∧ 623 ≤ 623 := by decide

theorem witness_SeedaRunsTheArrayPath : [0#32] ≠ ([] : List Word) := by decide

/-- The counter `i` of pass 1 after one more iteration. -/
theorem pass1After_succ_i (keys : List Word) (w : Words) (n : Nat) :
    (pass1After keys (n + 1) w).i =
      if 624 ≤ (pass1After keys n w).i + 1 then 1 else (pass1After keys n w).i + 1 := by
  unfold pass1After
  rw [forRange_last, pass1Step_i]

/-- Before its first wrap the counter `i` of pass 1 is one more than the iterations made. -/
theorem pass1_counter_before_wrap (keys : List Word) (w : Words) (n : Nat) (h : n ≤ 622) :
    (pass1After keys n w).i = n + 1 := by
  induction n with
  | zero => rfl
  | succ n ih => rw [pass1After_succ_i, ih (by omega), if_neg (by omega)]

/-- From `i` = 623, two more iterations of pass 1 wrap to `i` = 2. -/
theorem pass1_wraps_to_two (keys : List Word) (w : Words) (n : Nat)
    (h : (pass1After keys n w).i = 623) : (pass1After keys (n + 2) w).i = 2 := by
  rw [pass1After_succ_i, pass1After_succ_i, h]
  decide

/-- Pass 2 begins where pass 1 has ended. -/
theorem pass2After_zero (keys : List Word) (w : Words) (k : Nat)
    (h : max 624 keys.length = k) : pass2After keys 0 w = pass1After keys k w := by
  subst h
  rfl

/-- With one key, pass 2 begins at `i` = 2: pass 1 has wrapped once. -/
theorem pass2_starts_at_two (w : Words) : (pass2After [0#32] 0 w).i = 2 := by
  obtain ⟨n, hn⟩ : ∃ n, n = 622 := ⟨_, rfl⟩
  rw [pass2After_zero [0#32] w (n + 2) (by simp [hn])]
  exact pass1_wraps_to_two _ _ _ (by rw [pass1_counter_before_wrap _ _ _ (by omega), hn])

/-- The counter `i` of pass 2 after one more iteration. -/
theorem pass2After_succ_i (keys : List Word) (w : Words) (n : Nat) :
    (pass2After keys (n + 1) w).i =
      if 624 ≤ (pass2After keys n w).i + 1 then 1 else (pass2After keys n w).i + 1 := by
  unfold pass2After
  rw [forRange_last, pass2Step_i]

/-- With one key the counter of pass 2 goes up with the iterations made until it wraps. -/
theorem pass2_counter_before_wrap (w : Words) (n : Nat) (h : n ≤ 621) :
    (pass2After [0#32] n w).i = n + 2 := by
  induction n with
  | zero => exact pass2_starts_at_two w
  | succ n ih => rw [pass2After_succ_i, ih (by omega), if_neg (by omega)]

/-- The counters of pass 1 reach both sides of each wrap: `i` = 1 and 623, `j` = L - 1 and below. -/
theorem witness_PassOneIteration :
    (pass1After [0#32] 0 State.reset.W).i = 1 ∧ (pass1After [0#32] 622 State.reset.W).i = 623 ∧
    (pass1After [0#32] 0 State.reset.W).j + 1 = 1 ∧
    (pass1After [0#32, 0#32] 0 State.reset.W).j + 1 < 2 :=
  ⟨rfl, pass1_counter_before_wrap _ _ _ (Nat.le_refl _), rfl, by
    show 0 + 1 < 2
    omega⟩

/-- The counter of pass 2 starts at 2 for one key and reaches 623. -/
theorem witness_PassTwoIteration :
    (pass2After [0#32] 0 State.reset.W).i = 2 ∧
    (pass2After [0#32] 621 State.reset.W).i = 623 :=
  ⟨pass2_counter_before_wrap _ _ (by omega), pass2_counter_before_wrap _ _ (by omega)⟩

theorem witness_PassCountersInClosedForm : [1#32, 2#32] ≠ ([] : List Word) := by decide

theorem witness_ScalarSeedLeavesNoTwoAdjacentZeroWords : 1 ≤ 1 ∧ 1 ≤ 623 := by decide

theorem witness_SeedingIgnoresTheOldState : State.reset.entDelivers = true := rfl

/-- Delivering, and offered beforehand, and going on from words taken while waiting. -/
theorem witness_SeedeIsSeedaOfTheEntropyWords :
    (takenSoFar State.reset).length < Config.autoSeedWords ∧ State.reset.entDelivers = true ∧
    (takenSoFar { State.reset with waiting := some [1#32] }).length < Config.autoSeedWords ∧
    Config.autoSeedWords - (takenSoFar State.reset).length ≤
      ({ State.reset with ent := List.replicate Config.autoSeedWords 0#32 } : State).ent.length := by
  refine ⟨?_, rfl, ?_, ?_⟩ <;> simp [takenSoFar, State.reset, Config.autoSeedWords]
  omega

theorem witness_SeedeWaitsForEntropy :
    starved.entDelivers = false ∧
    (takenSoFar starved).length + starved.ent.length < Config.autoSeedWords ∧
    starved.waiting = some [] ∧ starved.ent = [] ∧
    ([] : List Word).length < Config.autoSeedWords ∧ (∀ rest, starved.req ≠ .reset :: rest) := by
  refine ⟨rfl, ?_, rfl, rfl, ?_, by intro rest h; cases h⟩
  · simp [takenSoFar, starved, State.reset, Config.autoSeedWords]
  · simp [Config.autoSeedWords]

theorem witness_OnlySeedeTakesEntropy :
    exec .next32 State.reset = .next (raise .notSeeded State.reset) ∧ Instr.next32 ≠ .seede :=
  ⟨rfl, by decide⟩

theorem witness_SeedingFrame :
    ¬ IsExtraction (.seeda []) ∧ (seededAt 3).seeded = true ∧
    exec (.seeda []) (seededAt 3) = .next (raise .invalidArgument (seededAt 3)) ∧
    (raise .invalidArgument (seededAt 3)).rsp ≠ (seededAt 3).rsp ++ [[0x00000000#32]] := by
  refine ⟨by unfold IsExtraction; decide, rfl, rfl, ?_⟩
  show [[1#32]] ≠ [[0#32]]
  decide

theorem witness_TwistOldAndNewOperands : 226 < 227 ∧ 227 ≤ 227 ∧ 227 < 623 ∧ 622 < 623 := by decide

theorem witness_TwistIgnoresTheLowBitsOfWordZero :
    (0x7FFFFFFF#32).getLsbD 31 = (readW (oneWord 0 0#32) 0).getLsbD 31 := by decide +kernel

theorem witness_DrawStateMachine :
    (seededAt 624).index.val = 624 ∧ (seededAt 623).index.val < 624 ∧
    (seededAt 0).index.val < 624 := by decide +kernel

theorem witness_TemperFourStepsBitByBit : 31 < 32 ∧ 0 < 32 := by decide

theorem witness_TemperIsInjective : temper 0#32 = temper 0#32 := rfl

theorem witness_Next32DeliversOneDraw :
    State.reset.seeded = false ∧ (seededAt 623).seeded = true ∧ (seededAt 623).index.val < 624 ∧
    (seededAt 624).seeded = true ∧ (seededAt 624).index.val = 624 := by decide +kernel

theorem witness_Nextr32DeliversTheNumerator :
    State.reset.seeded = false ∧ (seededAt 624).seeded = true := ⟨rfl, rfl⟩

theorem witness_Nextr53CombinesTwoDraws :
    State.reset.seeded = false ∧ (seededAt 623).seeded = true := ⟨rfl, rfl⟩

theorem witness_NextuuidDeliversSixteenBytes :
    State.reset.seeded = false ∧ (seededAt 622).seeded = true ∧
    ((0 : Fin 4), (0 : Fin 4)) ≠ (1, 2) ∧ ((0 : Fin 4), (0 : Fin 4)) ≠ (2, 0) :=
  ⟨rfl, rfl, by decide, by decide⟩

theorem witness_UuidTextShape :
    23 ∈ [8, 13, 18, 23] ∧ 35 < 36 ∧ 35 ∉ [8, 13, 18, 23] := by decide

/-- The last position at which the block suffices and the first at which it does not. -/
theorem witness_ExtractionFrame :
    IsExtraction .nextr53 ∧ (seededAt 622).seeded = true ∧
    (seededAt 622).index.val + drawCount .nextr53 ≤ 624 ∧
    624 < (seededAt 623).index.val + drawCount .nextr53 := by
  refine ⟨.inr (.inr (.inl rfl)), rfl, ?_, ?_⟩ <;> decide +kernel

theorem witness_DrawSequenceFromAnExhaustedBlock :
    (seededAt 624).index = 624 ∧ 1 ≤ 1 := by decide +kernel

theorem witness_FullBlockOfDrawsDeterminesTheStream :
    (seededAt 624).index = 624 ∧
    (∀ n, n < 624 → nthDraw n (seededAt 624) = nthDraw n (seededAt 624)) :=
  ⟨rfl, fun _ _ => rfl⟩

end Sys2Proof.Tests
end

/-! PROOFS for 30_encoding.md R74: operands as words, the command words of the assembler lines, and a
SEEDE whose words all stand on ENT. -/

namespace Sys2Proof

/-- A key count that fits the field LEN is the command word of SEEDA with its low bits OR-ed in. -/
theorem commandWord_seeda (len : Nat) (h : len ≤ keyLenMax) :
    commandWord 0x02#8 len = 0x02000000#32 ||| BitVec.ofNat 32 len := by
  have fits : len < 2 ^ 24 := Nat.lt_succ_of_le h
  have low : (BitVec.ofNat 24 len).setWidth 32 = BitVec.ofNat 32 len := by
    apply BitVec.eq_of_toNat_eq
    simp only [BitVec.toNat_setWidth, BitVec.toNat_ofNat, Nat.mod_eq_of_lt fits]
  rw [commandWord, low]
  rfl

end Sys2Proof

namespace Sys2Proof.Machine

/-- A host word is its integer reduced modulo 2^32, in the range 0 .. 2^32 - 1. -/
theorem hostWord_toNat (v : Int) : ((hostWord v).toNat : Int) = v % 2 ^ 32 := by
  rw [hostWord, BitVec.toNat_ofInt]
  exact Int.toNat_of_nonneg (Int.emod_nonneg v (by decide))

/-! ### Assembler lines -/

theorem assemble_seeda (ks : List Int) (h : ks.length ≤ keyLenMax) :
    assemble (.seeda ks) =
      some ⟨0x02000000#32 ||| BitVec.ofNat 32 ks.length, ks.map hostWord⟩ := by
  simp [assemble, h, encode, opcodeOf, lenOf, operandsOf, commandWord_seeda]

theorem assemble_seeds (v : Int) : assemble (.seeds v) = some ⟨0x01000000#32, [hostWord v]⟩ := by
  simp [assemble, encode, commandWord, opcodeOf, lenOf, operandsOf]

/-- A line that denotes a packet puts just that packet on REQ. -/
theorem enqueueLine_of_assemble {l : AsmLine} {p : Packet} (s : State)
    (h : assemble l = some p) :
    enqueueLine s l = { s with req := s.req ++ [.packet p] } := by
  cases l with
  | reset => cases h
  | entropy es => cases h
  | _ => simp only [enqueueLine, h]

@[simp] theorem enqueueLine_entropy (s : State) (es : List Int) :
    enqueueLine s (.entropy es) = { s with ent := s.ent ++ es.map hostWord } := rfl

/-! ### A SEEDE whose words are all offered -/

/-- As long as words are offered, the words delivered next are those, in their order. -/
theorem map_nextEntropy_range (s : State) (n : Nat) (h : n ≤ s.ent.length) :
    (List.range n).map (nextEntropy s) = s.ent.take n := by
  apply List.ext_getElem
  · simp [h]
  · intro t ht _
    have offered : t < s.ent.length := Nat.lt_of_lt_of_le (by simpa using ht) h
    simp [nextEntropy_offered s t offered]

/-- A SEEDE that begins with its words on ENT takes exactly those. -/
theorem takeEntropy_offered (e : Nat) (s : State) (hw : s.waiting = none)
    (h : e ≤ s.ent.length) :
    takeEntropy e s = some (s.ent.take e, { s with ent := s.ent.drop e }) := by
  have hand : entropyAtHand e s = true := (entropyAtHand_iff e s).mpr (.inr h)
  have nothing : takenSoFar s = [] := by simp [takenSoFar, hw]
  have none_drawn : e - s.ent.length = 0 := Nat.sub_eq_zero_of_le h
  simp [takeEntropy, nothing, hand, map_nextEntropy_range s e h, consumeEntropy, none_drawn, ← hw]

theorem exec_seeda_of_ne_nil {keys : List Word} (h : keys ≠ []) (s : State) :
    exec (.seeda keys) s = .next (seedFromKeys keys s) := by
  cases keys with
  | nil => exact absurd rfl h
  | cons k ks => exact exec_seeda_cons k ks s

/-- A SEEDE that begins with E words on ENT is the SEEDA of them (41_seeding.md R118). -/
theorem exec_seede_offered (s : State) (hw : s.waiting = none)
    (h : Config.autoSeedWords ≤ s.ent.length) :
    exec .seede s = exec (.seeda (s.ent.take Config.autoSeedWords))
      { s with ent := s.ent.drop Config.autoSeedWords } := by
  have nonempty : s.ent.take Config.autoSeedWords ≠ [] := by
    have := autoSeedWords_ge
    apply List.ne_nil_of_length_pos
    rw [List.length_take]
    omega
  rw [exec_seede, exec_seeda_of_ne_nil nonempty, seedFromEntropy, takeEntropy_offered _ s hw h]

/-- `.entropy` with E words directly before a SEEDE, nothing being offered earlier: the SEEDE takes
all of them and leaves ENT as empty as it was (30_encoding.md R74). -/
theorem exec_seede_after_entropy_line (s : State) (es : List Int) (hw : s.waiting = none)
    (hent : s.ent = []) (hlen : es.length = Config.autoSeedWords) :
    exec .seede (enqueueLine s (.entropy es)) = exec (.seeda (es.map hostWord)) s := by
  have all : (es.map hostWord).length = Config.autoSeedWords := by rw [List.length_map, hlen]
  have offered := exec_seede_offered { s with ent := es.map hostWord } hw (Nat.le_of_eq all.symm)
  rw [enqueueLine_entropy, hent, List.nil_append, offered, ← all, List.take_length,
    List.drop_length, ← hent]

/-- Settles O4: the operand words by `hostWord_toNat`, the packets line by line with SEEDA's command
word from `commandWord_seeda`, the entropy clause by `exec_seede_offered`, what a line puts on REQ
by cases over the lines. -/
theorem assemblerLinesDenoteTheirPackets : Obligations.AssemblerLinesDenoteTheirPackets :=
  ⟨hostWord_toNat, assemble_seeds, assemble_seeda, rfl, rfl, rfl, rfl, rfl, rfl, fun _ _ => rfl, rfl,
    fun _ => rfl, fun _ => rfl, exec_seede_after_entropy_line,
    fun s _ _ h => enqueueLine_of_assemble s h⟩

end Sys2Proof.Machine

/-! PROOFS for 40_arithmetic.md R98 and R100 to R102: each bit of the shared functions' results. -/

namespace Sys2Proof.Machine

/-- `UPPER_MASK` is bit 31 alone. -/
theorem upperMask_getLsbD (k : Nat) : upperMask.getLsbD k = decide (k = 31) := by
  have single : upperMask = BitVec.twoPow 32 31 := by decide
  simp [single, eq_comm]

/-- `LOWER_MASK` is bits 30:0. -/
theorem lowerMask_getLsbD (k : Nat) : lowerMask.getLsbD k = decide (k < 31) := by
  have ones : lowerMask = (BitVec.allOnes 31).setWidth 32 := by decide
  rw [ones, BitVec.getLsbD_setWidth, BitVec.getLsbD_allOnes, ← Bool.decide_and, decide_eq_decide]
  omega

/-- Every bit of Mix30 is the XOR of the bit itself and the bit 30 places above it. -/
theorem mix30_getLsbD (x : Word) (k : Nat) :
    (mix30 x).getLsbD k = (x.getLsbD k ^^ x.getLsbD (30 + k)) := by
  rw [mix30, BitVec.getLsbD_xor, BitVec.getLsbD_ushiftRight]

/-- From bit 2 on nothing stands 30 places above, so Mix30 keeps the bit. -/
theorem mix30_getLsbD_of_two_le (x : Word) {k : Nat} (h : 2 ≤ k) :
    (mix30 x).getLsbD k = x.getLsbD k := by
  rw [mix30_getLsbD, BitVec.getLsbD_of_ge x (30 + k) (by omega), Bool.xor_false]

/-- Every bit of Combine is selected from one argument or the other by its position. -/
theorem combine_getLsbD (u l : Word) (k : Nat) :
    (combine u l).getLsbD k =
      (u.getLsbD k && decide (k = 31) || l.getLsbD k && decide (k < 31)) := by
  rw [combine, BitVec.getLsbD_or, BitVec.getLsbD_and, BitVec.getLsbD_and, upperMask_getLsbD,
    lowerMask_getLsbD]

/-- Bit 31 of Combine is its first argument's. -/
theorem combine_getLsbD_top (u l : Word) : (combine u l).getLsbD 31 = u.getLsbD 31 := by
  rw [combine_getLsbD]
  simp

/-- Bits 30:0 of Combine are its second argument's. -/
theorem combine_getLsbD_low (u l : Word) {k : Nat} (h : k < 31) :
    (combine u l).getLsbD k = l.getLsbD k := by
  rw [combine_getLsbD]
  simp [h, Nat.ne_of_lt h]

theorem magic_of_odd {y : Word} (h : y.getLsbD 0 = true) : magic y = matrixA := if_pos h

theorem magic_of_even {y : Word} (h : y.getLsbD 0 = false) : magic y = 0#32 :=
  if_neg (Bool.eq_false_iff.mp h)

/-- Settles O18: Mix30 by `mix30_getLsbD`, Combine by the bits of its two masks, Magic by its two
cases, TwistWord by its definition, the rules' examples by evaluation. -/
theorem sharedFunctionsBitByBit : Obligations.SharedFunctionsBitByBit := by
  refine ⟨fun x => ⟨mix30_getLsbD x 0, mix30_getLsbD x 1,
      fun _ two_le _ => mix30_getLsbD_of_two_le x two_le⟩,
    fun u l => ⟨combine_getLsbD_top u l, fun _ low => combine_getLsbD_low u l low⟩,
    fun _ => ⟨magic_of_odd, magic_of_even⟩, fun _ _ _ => rfl, ?examples⟩
  case examples => decide

end Sys2Proof.Machine

/-! PROOFS for 41_seeding.md R110 to R118: the scalar path, one iteration of either pass of the
array path, and the three seeding commands. -/

namespace Sys2Proof.Machine

/-! ### The scalar path -/

theorem encode_seeds (seed : Word) : encode (.seeds seed) = ⟨0x01000000#32, [seed]⟩ := by
  simp [encode, commandWord, opcodeOf, lenOf, operandsOf]

/-- `W[0 .. k-1]` hold the scalar path's words for the seed (41_seeding.md R111). -/
structure ScalarFilled (seed : Word) (k : Nat) (w : Words) : Prop where
  first : readW w 0 = seed
  later : ∀ i, 1 ≤ i → i < k →
    readW w i = initMult * mix30 (readW w (i - 1)) + BitVec.ofNat 32 i

/-- A step of the scalar path adds its own word to those filled. -/
theorem scalarStep_filled {seed : Word} {k : Nat} {w : Words} (pos : 1 ≤ k) (lt : k < 624)
    (h : ScalarFilled seed k w) : ScalarFilled seed (k + 1) (scalarStep k w) where
  first := by rw [scalarStep_frame k 0 w (by omega), h.first]
  later i hi hik := by
    rw [scalarStep_frame k (i - 1) w (by omega)]
    rcases Nat.lt_succ_iff_lt_or_eq.mp hik with below | rfl
    · rw [scalarStep_frame k i w (by omega), h.later i hi below]
    · exact scalarStep_value i w lt

/-- The scalar path fills the whole state vector. -/
theorem scalarInit_filled (w : Words) (seed : Word) :
    ScalarFilled seed 624 (scalarInit w seed) := by
  have start : ScalarFilled seed 1 (writeW w 0 seed) :=
    ⟨readW_writeW_same w 0 seed (by decide), fun i hi lt => by omega⟩
  unfold scalarInit
  exact forRange_induct 1 623 scalarStep _ (ScalarFilled seed) start
    fun k _ pos lt h => scalarStep_filled pos lt h

/-! ### One iteration of the array path -/

/-- One iteration of either pass that stores `v`: the word at `i` becomes `v`, `i` advances and
wraps from 623 to 1, only the wrap touches `W[0]`, no other word changes
(41_seeding.md R114, R115). -/
structure StoresAndAdvances (m : Mixing) (v : Word) (m' : Mixing) : Prop where
  stored : readW m'.w m.i = v
  advances : m.i < 623 → m'.i = m.i + 1 ∧ readW m'.w 0 = readW m.w 0
  wraps : m.i = 623 → m'.i = 1 ∧ readW m'.w 0 = readW m'.w 623
  others : ∀ k, k ≠ 0 → k ≠ m.i → readW m'.w k = readW m.w k

theorem wrapI_of_lt {m : Mixing} (h : m.i < 624) : wrapI m = m := if_neg (Nat.not_le.mpr h)

/-- After the wrap of `i`, `W[0]` and `W[623]` hold the same word. -/
theorem wrapI_word_zero {m : Mixing} (h : 624 ≤ m.i) :
    readW (wrapI m).w 0 = readW (wrapI m).w 623 := by
  rw [wrapI_frame m 623 (by decide), wrapI, if_pos h]
  exact readW_writeW_same _ _ _ (by decide)

/-- Storing a word at `i`, then advancing and wrapping `i`. -/
theorem wrapI_storesAndAdvances (m : Mixing) (v : Word) (j : Nat) (pos : 1 ≤ m.i)
    (le : m.i ≤ 623) :
    StoresAndAdvances m v (wrapI { w := writeW m.w m.i v, i := m.i + 1, j := j }) where
  stored := by
    rw [wrapI_frame _ _ (by omega)]
    exact readW_writeW_same _ _ _ (by omega)
  advances lt := by
    rw [wrapI_of_lt (Nat.succ_lt_succ lt)]
    exact ⟨rfl, readW_writeW_other _ _ _ _ (by omega)⟩
  wraps last :=
    have past : 624 ≤ m.i + 1 := by omega
    ⟨by rw [wrapI_i]; exact if_pos past, wrapI_word_zero past⟩
  others k nonzero other := by
    rw [wrapI_frame _ _ nonzero]
    exact readW_writeW_other _ _ _ _ other

/-- The wrap of `j` has no part in what an iteration does to `W` and `i`. -/
theorem StoresAndAdvances.after_wrapJ {m m' : Mixing} {v : Word} (h : StoresAndAdvances m v m')
    (count : Nat) : StoresAndAdvances m v (wrapJ count m') where
  stored := by simpa using h.stored
  advances := by simpa using h.advances
  wraps := by simpa using h.wraps
  others := by simpa using h.others

theorem pass1Step_storesAndAdvances (keys : List Word) (m : Mixing) (pos : 1 ≤ m.i)
    (le : m.i ≤ 623) :
    StoresAndAdvances m
      ((readW m.w m.i ^^^ (mix30 (readW m.w (m.i - 1)) * arrayMult1)) + keyAt keys m.j
        + BitVec.ofNat 32 m.j)
      (pass1Step keys m) :=
  (wrapI_storesAndAdvances m _ (m.j + 1) pos le).after_wrapJ keys.length

theorem pass2Step_storesAndAdvances (m : Mixing) (pos : 1 ≤ m.i) (le : m.i ≤ 623) :
    StoresAndAdvances m
      ((readW m.w m.i ^^^ (mix30 (readW m.w (m.i - 1)) * arrayMult2)) - BitVec.ofNat 32 m.i)
      (pass2Step m) :=
  wrapI_storesAndAdvances m _ m.j pos le

theorem wrapJ_j (count : Nat) (m : Mixing) :
    (wrapJ count m).j = if count ≤ m.j then 0 else m.j := by
  unfold wrapJ; split <;> rfl

/-- The counter `j` goes up by one and wraps to 0 at the key count. -/
theorem pass1Step_j (keys : List Word) (m : Mixing) :
    (pass1Step keys m).j = if keys.length ≤ m.j + 1 then 0 else m.j + 1 := by
  unfold pass1Step
  rw [wrapJ_j, wrapI_j]

/-! ### The passes -/

theorem pass1After_zero (keys : List Word) (w : Words) :
    pass1After keys 0 w = { w := scalarInit w arrayBaseSeed, i := 1, j := 0 } := rfl

theorem pass1After_succ (keys : List Word) (n : Nat) (w : Words) :
    pass1After keys (n + 1) w = pass1Step keys (pass1After keys n w) :=
  forRange_last _ _ _ _

theorem pass2After_start (keys : List Word) (w : Words) :
    pass2After keys 0 w = pass1After keys (max 624 keys.length) w := rfl

theorem pass2After_succ (keys : List Word) (n : Nat) (w : Words) :
    pass2After keys (n + 1) w = pass2Step (pass2After keys n w) :=
  forRange_last _ _ _ _

/-- Pass 1 keeps `i` in 1 .. 623. -/
theorem pass1After_i_bounds (keys : List Word) (n : Nat) (w : Words) :
    1 ≤ (pass1After keys n w).i ∧ (pass1After keys n w).i ≤ 623 := by
  cases n with
  | zero => exact ⟨Nat.le_refl 1, (by decide : 1 ≤ 623)⟩
  | succ n => rw [pass1After_succ, pass1Step_i]; split <;> omega

/-- Pass 2 keeps `i` in 1 .. 623. -/
theorem pass2After_i_bounds (keys : List Word) (n : Nat) (w : Words) :
    1 ≤ (pass2After keys n w).i ∧ (pass2After keys n w).i ≤ 623 := by
  cases n with
  | zero => exact pass1After_i_bounds keys _ w
  | succ n => rw [pass2After_succ, pass2Step_i]; split <;> omega

/-- The array path is pass 1, then 623 iterations of pass 2, then `W[0]` forced
(41_seeding.md R113). -/
theorem arrayInit_eq_pass2After (w : Words) (keys : List Word) :
    arrayInit w keys = writeW (pass2After keys 623 w).w 0 arrayFinalW0 := by
  unfold arrayInit pass2 pass1 pass2After pass1After
  rfl

/-- Forcing `W[0]` leaves the words that pass 2 left elsewhere. -/
theorem arrayInit_word (w : Words) (keys : List Word) {k : Nat} (h : k ≠ 0) :
    readW (arrayInit w keys) k = readW (pass2After keys 623 w).w k := by
  rw [arrayInit_eq_pass2After, readW_writeW_other _ _ _ _ h]

/-! ### The words SEEDE takes -/

/-- The words that a SEEDE of `e` words still takes: the next ones the environment delivers. -/
def entropyToCome (e : Nat) (s : State) : List Word :=
  (List.range (e - (takenSoFar s).length)).map (nextEntropy s)

@[simp] theorem entropyToCome_length (e : Nat) (s : State) :
    (entropyToCome e s).length = e - (takenSoFar s).length := by simp [entropyToCome]

/-- Words offered on ENT come first, in their order. -/
theorem entropyToCome_offered (e : Nat) (s : State) {k : Nat}
    (needed : k < (entropyToCome e s).length) (offered : k < s.ent.length) :
    (entropyToCome e s)[k]? = s.ent[k]? := by
  rw [List.getElem?_eq_getElem needed, List.getElem?_eq_getElem offered,
    ← nextEntropy_offered s k offered]
  simp [entropyToCome]

/-- The words a SEEDE has taken and those still to come are its E keys. -/
theorem seedeKeys_length (s : State) (short : (takenSoFar s).length < Config.autoSeedWords) :
    (takenSoFar s ++ entropyToCome Config.autoSeedWords s).length = Config.autoSeedWords := by
  rw [List.length_append, entropyToCome_length]
  omega

theorem seedeKeys_ne_nil (s : State) (short : (takenSoFar s).length < Config.autoSeedWords) :
    takenSoFar s ++ entropyToCome Config.autoSeedWords s ≠ [] := by
  have total := seedeKeys_length s short
  exact List.ne_nil_of_length_pos (by omega)

/-- A SEEDE with its words at hand is the SEEDA of them, run once they are taken off ENT
(41_seeding.md R118). -/
theorem exec_seede_of_atHand (s : State) (short : (takenSoFar s).length < Config.autoSeedWords)
    (atHand : entropyAtHand (Config.autoSeedWords - (takenSoFar s).length) s = true) :
    exec .seede s = exec (.seeda (takenSoFar s ++ entropyToCome Config.autoSeedWords s))
      { s with
        waiting := none
        ent := s.ent.drop (entropyToCome Config.autoSeedWords s).length
        entDrawn := s.entDrawn +
          ((entropyToCome Config.autoSeedWords s).length - s.ent.length) } := by
  rcases takeEntropy_cases Config.autoSeedWords s with ⟨-, taken⟩ | ⟨starved, -⟩
  · rw [exec_seede, seedFromEntropy, taken, exec_seeda_of_ne_nil (seedeKeys_ne_nil s short),
      entropyToCome_length]
    rfl
  · exact absurd (atHand.symm.trans starved) (by decide)

/-- SEEDA with keys ends OK, seeded, at index 624 and with `W[0]` forced (41_seeding.md R112,
R113). -/
theorem exec_seeda_answersOk {keys : List Word} (h : keys ≠ []) (s : State) :
    ∃ t, exec (.seeda keys) s = .next t ∧ t.seeded = true ∧ t.index = 624 ∧
      readW t.W 0 = 0x80000000#32 ∧ t.rsp = s.rsp ++ [[0x00000000#32]] :=
  ⟨_, exec_seeda_of_ne_nil h s, rfl, rfl, arrayInit_word_zero s.W keys, rfl⟩

/-! ### The obligations -/

/-- Settles O20: the words by `scalarInit_filled`, the loop invariant of the scalar path; the rest
of the next state by definition. -/
theorem seedsFillsTheStateVector : Obligations.SeedsFillsTheStateVector := by
  intro seed s
  obtain ⟨first, later⟩ := scalarInit_filled s.W seed
  exact ⟨encode_seeds seed, _, exec_seeds seed s, first,
    fun i pos le => later i pos (Nat.lt_succ_of_le le), rfl⟩

/-- Settles O22: `W` and `i` by `pass1Step_storesAndAdvances`, with `i` in 1 .. 623; `j` by
`pass1Step_j`. -/
theorem passOneIteration : Obligations.PassOneIteration := by
  intro keys w n _ m m'
  obtain ⟨pos, le⟩ := pass1After_i_bounds keys n w
  have step : m' = pass1Step keys m := pass1After_succ keys n w
  have next_j : m'.j = if keys.length ≤ m.j + 1 then 0 else m.j + 1 := by rw [step, pass1Step_j]
  obtain ⟨stored, advances, wraps, others⟩ := step ▸ pass1Step_storesAndAdvances keys m pos le
  refine ⟨stored, advances, wraps, fun below => ?_, fun last => ?_, others,
    pass2After_start keys w⟩
  · rw [next_j, if_neg (by omega)]
  · rw [next_j, if_pos (by omega)]

/-- Settles O23: `W` and `i` by `pass2Step_storesAndAdvances`, with `i` in 1 .. 623; the number of
iterations by `arrayInit_word`. -/
theorem passTwoIteration : Obligations.PassTwoIteration := by
  intro keys w n _ m m'
  obtain ⟨pos, le⟩ := pass2After_i_bounds keys n w
  have step : m' = pass2Step m := pass2After_succ keys n w
  obtain ⟨stored, advances, wraps, others⟩ := step ▸ pass2Step_storesAndAdvances m pos le
  exact ⟨stored, advances, wraps, others, fun _ nonzero => arrayInit_word w keys nonzero⟩

/-- Settles O21: with keys the words are those of `arrayInit`, which `arrayInit_word_zero` and
`arrayInit_word` read; the rest of the next state by definition. -/
theorem seedaRunsTheArrayPath : Obligations.SeedaRunsTheArrayPath := by
  refine ⟨fun _ => rfl, exec_seeda_nil, fun keys s nonempty => ?_⟩
  exact ⟨_, exec_seeda_of_ne_nil nonempty s, arrayInit_word_zero s.W keys,
    fun k pos _ => arrayInit_word s.W keys (by omega), pass1After_zero keys s.W,
    pass2After_start keys s.W, rfl⟩

/-- Settles O27: the keys are the words taken while waiting and `entropyToCome`; SEEDE is the SEEDA
of them by `exec_seede_of_atHand`, which ends by `exec_seeda_answersOk`. -/
theorem seedeIsSeedaOfTheEntropyWords : Obligations.SeedeIsSeedaOfTheEntropyWords := by
  refine ⟨rfl, autoSeedWords_ge, autoSeedWords_le, fun s short atHand => ?_⟩
  have same := exec_seede_of_atHand s short ((entropyAtHand_iff _ s).mpr atHand)
  obtain ⟨t, runs, ok⟩ := exec_seeda_answersOk (seedeKeys_ne_nil s short) _
  exact ⟨entropyToCome Config.autoSeedWords s, _, t, seedeKeys_length s short,
    fun _ needed offered => entropyToCome_offered _ s needed offered, same, same.trans runs, ok⟩

end Sys2Proof.Machine

/-! PROOFS for 42_twist.md R142 to R144: the words that each part of the twist reads. -/

namespace Sys2Proof.Machine

/-- The first operand of step `k < 623`, with `w` the words before the twist and `v` those now: an
old word in range 1, a new one in range 2 (42_twist.md R142, R143). -/
def twistOperand (w v : Words) (k : Nat) : Word :=
  if k < 227 then readW w (k + 397) else readW v (k + 397 - 624)

theorem twistOperand_range1 (w v : Words) {k : Nat} (h : k < 227) :
    twistOperand w v k = readW w (k + 397) := if_pos h

theorem twistOperand_range2 (w v : Words) {k : Nat} (h : 227 ≤ k) :
    twistOperand w v k = readW v (k + 397 - 624) := if_neg (Nat.not_lt.mpr h)

/-- A write to word `k` changes the first operand of no step up to `k`. -/
theorem twistOperand_twistAt (w v : Words) (next src : Nat) {i k : Nat} (le : i ≤ k) :
    twistOperand w (twistAt v k next src) i = twistOperand w v i := by
  rcases Nat.lt_or_ge i 227 with range1 | range2
  · rw [twistOperand_range1 _ _ range1, twistOperand_range1 _ _ range1]
  · rw [twistOperand_range2 _ _ range2, twistOperand_range2 _ _ range2,
      twistAt_frame _ _ _ _ _ (by omega)]

/-- The twist of `w` has come to word `k`: those below are new, the others still old. -/
structure TwistedBelow (w : Words) (k : Nat) (v : Words) : Prop where
  written : ∀ i, i < k →
    readW v i = twistWord (readW w i) (readW w (i + 1)) (twistOperand w v i)
  untouched : ∀ i, k ≤ i → readW v i = readW w i

/-- A step that reads the right first operand carries the twist to the next word. -/
theorem TwistedBelow.step {w v : Words} {k src : Nat} (h : TwistedBelow w k v) (lt : k < 623)
    (source : readW v src = twistOperand w v k) :
    TwistedBelow w (k + 1) (twistAt v k (k + 1) src) where
  written i hi := by
    rw [twistOperand_twistAt w v _ _ (Nat.le_of_lt_succ hi)]
    rcases Nat.lt_succ_iff_lt_or_eq.mp hi with below | rfl
    · rw [twistAt_frame v k _ _ i (Nat.ne_of_lt below), h.written i below]
    · rw [twistAt_value v i _ _ (by omega), source, h.untouched i (Nat.le_refl i),
        h.untouched (i + 1) (Nat.le_succ i)]
  untouched i hi := by
    rw [twistAt_frame v k _ _ i (by omega), h.untouched i (by omega)]

/-- Range 1 reads words not yet overwritten (42_twist.md R142). -/
theorem twistRange1_twistedBelow (w : Words) : TwistedBelow w 227 (twistRange1 w) := by
  have start : TwistedBelow w 0 w := ⟨fun i hi => absurd hi (Nat.not_lt_zero i), fun _ _ => rfl⟩
  refine forRange_induct 0 227 _ w (TwistedBelow w) start fun k v _ lt h => h.step (by omega) ?_
  rw [twistOperand_range1 w v (by omega), h.untouched (k + 397) (by omega)]

/-- Range 2 goes on from range 1 and reads its first operand among the words already new
(42_twist.md R143). -/
theorem twistRange2_twistedBelow (w : Words) :
    TwistedBelow w 623 (twistRange2 (twistRange1 w)) := by
  refine forRange_induct 227 396 _ _ (TwistedBelow w) (twistRange1_twistedBelow w)
    fun k v ge lt h => h.step (by omega) ?_
  rw [twistOperand_range2 w v ge, Nat.add_sub_add_right k 397 227]

/-- The final step writes `W[623]` only. -/
theorem twist_word_of_ne_last (w : Words) {k : Nat} (h : k ≠ 623) :
    readW (twist w) k = readW (twistRange2 (twistRange1 w)) k := by
  unfold twist
  exact twistAt_frame _ 623 0 396 k h

/-- Every word but the last, by the operands of its range. -/
theorem twist_word (w : Words) {k : Nat} (h : k < 623) :
    readW (twist w) k =
      twistWord (readW w k) (readW w (k + 1)) (twistOperand w (twist w) k) := by
  have operand : twistOperand w (twist w) k =
      twistOperand w (twistRange2 (twistRange1 w)) k := by
    unfold twist
    exact twistOperand_twistAt w _ 0 396 (Nat.le_of_lt h)
  rw [operand, twist_word_of_ne_last w (Nat.ne_of_lt h)]
  exact (twistRange2_twistedBelow w).written k h

/-- The last word is still old when it is replaced; the other two it reads are new
(42_twist.md R144). -/
theorem twist_last_word (w : Words) :
    readW (twist w) 623 =
      twistWord (readW w 623) (readW (twist w) 0) (readW (twist w) 396) := by
  rw [twist_word_of_ne_last w (k := 0) (by decide), twist_word_of_ne_last w (k := 396) (by decide),
    ← (twistRange2_twistedBelow w).untouched 623 (Nat.le_refl 623)]
  unfold twist
  exact twistAt_value _ 623 0 396 (by decide)

/-- Settles O31: the words below 623 by `twist_word`, with the first operand of each range; the last
by `twist_last_word`. -/
theorem twistOldAndNewOperands : Obligations.TwistOldAndNewOperands := by
  refine fun w => ⟨fun k range1 => ?_, fun k range2 lt => ?_, twist_last_word w⟩
  · rw [twist_word w (by omega), twistOperand_range1 w _ range1]
  · rw [twist_word w lt, twistOperand_range2 w _ range2]

end Sys2Proof.Machine

/-! PROOFS for 43_output.md R160 to R166: what a draw gives on either side of index 624, Temper bit by
bit, and the four extraction commands with the values and the text of their data words. -/

namespace Sys2Proof.Machine

/-! ### Draws -/

/-- An exhausted block is twisted, and the first word of the new one is drawn. -/
theorem draw_exhausted (s : State) (h : s.index.val = 624) :
    draw s = (temper (readW (twist s.W) 0), { s with W := twist s.W, index := 1 }) := by
  rcases draw_cases s with ⟨_, e⟩ | ⟨lt, _⟩
  · exact e
  · omega

/-- An available block is read at `index`, which advances. -/
theorem draw_available (s : State) (h : s.index.val < 624) :
    draw s =
      (temper (readW s.W s.index.val), { s with index := advanceIndex s.index }) := by
  rcases draw_cases s with ⟨exhausted, _⟩ | ⟨_, e⟩
  · omega
  · exact e

/-- Draws answer nothing. -/
@[simp] theorem afterDraws_rsp (n : Nat) (s : State) : (afterDraws n s).rsp = s.rsp := by
  induction n with
  | zero => rfl
  | succ n ih => rw [afterDraws, draw_rsp, ih]

/-- Settles O35: the two cases of a draw, `draw_exhausted` and `draw_available`. -/
theorem drawStateMachine : Obligations.DrawStateMachine := by
  refine fun s => ⟨draw_exhausted s, fun available => ?_⟩
  rw [draw_available s available]
  exact ⟨rfl, advanceIndex_val s.index available, rfl⟩

/-! ### Tempering -/

/-- XOR with the word shifted right by `n`: bit `k` meets bit `k + n`, if there is one. -/
theorem xor_ushiftRight_getLsbD (y : Word) (n k : Nat) :
    (y ^^^ (y >>> n)).getLsbD k =
      (y.getLsbD k ^^ (decide (k < 32 - n) && y.getLsbD (k + n))) := by
  rw [BitVec.getLsbD_xor, BitVec.getLsbD_ushiftRight, Nat.add_comm n k]
  by_cases inside : k < 32 - n
  · simp [inside]
  · simp [inside, BitVec.getLsbD_of_ge y (k + n) (by omega)]

/-- XOR with the word shifted left by `n` under a mask: bit `k` meets bit `k - n`, if there is one
and the mask has bit `k`. -/
theorem xor_shiftLeft_and_getLsbD (y mask : Word) (n k : Nat) (h : k < 32) :
    (y ^^^ ((y <<< n) &&& mask)).getLsbD k =
      (y.getLsbD k ^^ (decide (n ≤ k) && y.getLsbD (k - n) && mask.getLsbD k)) := by
  rw [BitVec.getLsbD_xor, BitVec.getLsbD_and, BitVec.getLsbD_shiftLeft]
  simp [h, ← decide_not]

/-- Settles O36: the four steps are `temper`'s own, each bit by `xor_ushiftRight_getLsbD` or
`xor_shiftLeft_and_getLsbD`; the rule's examples by evaluation. -/
theorem temperFourStepsBitByBit : Obligations.TemperFourStepsBitByBit := by
  refine ⟨fun y0 => ?steps, ?examples⟩
  case steps =>
    exact ⟨_, _, _, fun k _ => xor_ushiftRight_getLsbD y0 11 k,
      fun k h => xor_shiftLeft_and_getLsbD _ temperB 7 k h,
      fun k h => xor_shiftLeft_and_getLsbD _ temperC 15 k h,
      fun k _ => xor_ushiftRight_getLsbD _ 18 k⟩
  case examples => decide

/-! ### NEXT32 and NEXTR32 -/

/-- Every extraction command is refused while the engine is unseeded (60_exceptions.md R193). -/
theorem exec_extraction_unseeded {i : Instr} (hi : IsExtraction i) (s : State)
    (h : s.seeded = false) :
    exec i s = .next { s with rsp := s.rsp ++ [[0x00000003#32]] } := by
  rcases hi with rfl | rfl | rfl | rfl
  · rw [exec_next32, whenSeeded_false _ s h]; rfl
  · rw [exec_nextr32, whenSeeded_false _ s h]; rfl
  · rw [exec_nextr53, whenSeeded_false _ s h]; rfl
  · rw [exec_nextuuid, whenSeeded_false _ s h]; rfl

/-- The draw's word is answered from the state after the draw. -/
theorem deliverDraw_eq (s : State) :
    deliverDraw s =
      { (draw s).2 with rsp := s.rsp ++ [[0x00000000#32, (draw s).1]] } := by
  rw [deliverDraw, respond, draw_rsp]
  rfl

/-- Settles O38: unseeded by `exec_extraction_unseeded`; seeded, `deliverDraw_eq` with the two cases
of the draw. -/
theorem next32DeliversOneDraw : Obligations.Next32DeliversOneDraw := by
  refine ⟨rfl, exec_extraction_unseeded (.inl rfl), fun s seeded available => ?_,
    fun s seeded exhausted => ?_⟩
  · refine ⟨deliverDraw s, ?_, ?_, ?_⟩
    · rw [exec_next32, whenSeeded_true _ s seeded]
    · rw [deliverDraw_eq, draw_available s available]
      exact advanceIndex_val s.index available
    · rw [deliverDraw_eq, draw_available s available]
  · rw [exec_next32, whenSeeded_true _ s seeded, deliverDraw_eq, draw_exhausted s exhausted]

/-- A numerator below 2^k, over 2^k, denotes a value in [0, 1) that gives it back. -/
theorem numerator_over_pow (n k : Nat) (h : n < 2 ^ k) :
    (n : Rat) / (2 ^ k : Nat) * 2 ^ k = n ∧ 0 ≤ (n : Rat) / (2 ^ k : Nat) ∧
      (n : Rat) / (2 ^ k : Nat) < 1 := by
  have pos : (0 : Rat) < (2 ^ k : Nat) := by positivity
  refine ⟨?_, by positivity, (div_lt_one pos).mpr (Nat.cast_lt.mpr h)⟩
  calc (n : Rat) / (2 ^ k : Nat) * 2 ^ k
      = (n : Rat) / (2 ^ k : Nat) * (2 ^ k : Nat) := by norm_cast
    _ = n := div_mul_cancel₀ _ pos.ne'

/-- Settles O39: unseeded by `exec_extraction_unseeded`, seeded by `deliverDraw_eq`, the value by
`numerator_over_pow`. -/
theorem nextr32DeliversTheNumerator : Obligations.Nextr32DeliversTheNumerator := by
  refine ⟨rfl, exec_extraction_unseeded (.inr (.inl rfl)), fun s seeded => ?_,
    fun n => numerator_over_pow n.toNat 32 n.isLt⟩
  rw [exec_nextr32, whenSeeded_true _ s seeded, deliverDraw_eq]

/-! ### NEXTR53 -/

/-- Answering OK after `n` draws: the one response more is all that differs from the draws alone. -/
theorem respond_ok_afterDraws (n : Nat) (data : List Word) (s : State) :
    respond .ok data (afterDraws n s) =
      { afterDraws n s with rsp := s.rsp ++ [0x00000000#32 :: data] } := by
  rw [respond, afterDraws_rsp]
  rfl

theorem deliverReal53_eq (s : State) :
    deliverReal53 s =
      respond .ok (numeratorWords (numerator53 (nthDraw 0 s) (nthDraw 1 s))) (afterDraws 2 s) := rfl

/-- The shifts of the 53-bit numerator are divisions. -/
theorem numerator53_eq (v0 v1 : Word) :
    numerator53 v0 v1 = v0.toNat / 2 ^ 5 * 2 ^ 26 + v1.toNat / 2 ^ 6 := by
  simp only [numerator53, BitVec.toNat_ushiftRight, Nat.shiftRight_eq_div_pow]

/-- 27 bits over 26 bits make 53. -/
theorem numerator53_lt (v0 v1 : Word) : numerator53 v0 v1 < 2 ^ 53 := by
  have := v0.isLt
  have := v1.isLt
  rw [numerator53_eq]
  omega

/-- The two words of a 53-bit numerator give it back, the upper one of 21 bits. -/
theorem numeratorWords_toNat {n : Nat} (h : n < 2 ^ 53) :
    (BitVec.ofNat 32 (n / 2 ^ 32)).toNat * 2 ^ 32 + (BitVec.ofNat 32 n).toNat = n ∧
      (BitVec.ofNat 32 (n / 2 ^ 32)).toNat ≤ 0x001FFFFF := by
  simp only [BitVec.toNat_ofNat]
  omega

/-- Settles O40: the response by `deliverReal53_eq`, its words by `numeratorWords_toNat`, their value
by `numerator_over_pow`. -/
theorem nextr53CombinesTwoDraws : Obligations.Nextr53CombinesTwoDraws := by
  refine ⟨rfl, exec_extraction_unseeded (.inr (.inr (.inl rfl))), fun s seeded => ?_⟩
  rw [← numerator53_eq]
  have lt := numerator53_lt (nthDraw 0 s) (nthDraw 1 s)
  obtain ⟨joined, upper⟩ := numeratorWords_toNat lt
  refine ⟨_, _, ?response, joined, upper, ?value⟩
  case response =>
    rw [exec_nextr53, whenSeeded_true _ s seeded, deliverReal53_eq, respond_ok_afterDraws]
    rfl
  case value =>
    rw [real53Value, joined]
    exact numerator_over_pow _ 53 lt

/-! ### NEXTUUID -/

theorem deliverUuid_eq (order : ByteOrder) (s : State) :
    deliverUuid order s =
      respond .ok
        (uuidWords (uuidBytes order (nthDraw 0 s) (nthDraw 1 s) (nthDraw 2 s) (nthDraw 3 s)))
        (afterDraws 4 s) := rfl

/-- Draw `d` fills bytes `4d .. 4d+3`. -/
theorem uuidFill_getElem? (order : ByteOrder) (v0 v1 v2 v3 : Word) (d o : Fin 4) :
    (uuidFill order v0 v1 v2 v3).toList[4 * d.val + o.val]? =
      some (drawByte order ([v0, v1, v2, v3].getD d.val 0#32) o.val) := by
  fin_cases d <;> fin_cases o <;> rfl

/-- The two overwrites touch bytes 6 and 8 only. -/
theorem uuidStamp_frame (b : UuidBuffer) {k : Nat} (not6 : k ≠ 6) (not8 : k ≠ 8) :
    (uuidStamp b).toList[k]? = b.toList[k]? := by
  simp [uuidStamp, Vector.toList_set, List.getElem?_set_ne, not6.symm, not8.symm]

theorem uuidStamp_version (b : UuidBuffer) : (uuidStamp b)[6] = (b[6] &&& 0x0F#8) ||| 0x40#8 := by
  simp [uuidStamp]

theorem uuidStamp_variant (b : UuidBuffer) : (uuidStamp b)[8] = (b[8] &&& 0x3F#8) ||| 0x80#8 := by
  simp [uuidStamp]

/-- Settles O41: the response by `deliverUuid_eq`; the bytes by `uuidFill_getElem?` where the
overwrites leave them (`uuidStamp_frame`), bytes 6 and 8 by `uuidStamp_version` and
`uuidStamp_variant`. -/
theorem nextuuidDeliversSixteenBytes : Obligations.NextuuidDeliversSixteenBytes := by
  refine ⟨rfl, exec_extraction_unseeded (.inr (.inr (.inr rfl))), fun s seeded => ?response,
    fun order v0 v1 v2 v3 => ⟨fun d o not6 not8 => ?asDrawn, ?version, ?variant⟩⟩
  case response =>
    refine ⟨_, rfl, ?_⟩
    rw [exec_nextuuid, whenSeeded_true _ s seeded, deliverUuid_eq, respond_ok_afterDraws]
    rfl
  case asDrawn =>
    have ne6 : 4 * d.val + o.val ≠ 6 := fun e => not6 (by ext <;> simp <;> omega)
    have ne8 : 4 * d.val + o.val ≠ 8 := fun e => not8 (by ext <;> simp <;> omega)
    rw [uuidBytes, uuidStamp_frame _ ne6 ne8, uuidFill_getElem?]
    cases order with
    | big => rw [drawByte, byteOf, show 8 * (3 - o.val) = 24 - 8 * o.val by omega]
    | little => rfl
  case version =>
    rw [uuidBytes, uuidStamp_version]
    cases order <;> rfl
  case variant =>
    rw [uuidBytes, uuidStamp_variant]
    cases order <;> rfl

/-! ### The UUID text -/

/-- A hexadecimal digit is its nibble's entry in the row of digits. -/
theorem hexDigit_eq (c : HexCase) (n : BitVec 4) : hexDigit c n = (hexDigits c).getD n.toNat '?' := by
  revert n
  cases c <;> decide

@[simp] theorem hexDigit_mem (c : HexCase) (n : BitVec 4) : hexDigit c n ∈ hexDigits c := by
  have lt : n.toNat < (hexDigits c).length := by cases c <;> exact n.isLt
  rw [hexDigit_eq, List.getD_eq_getElem _ _ lt]
  exact List.getElem_mem lt

@[simp] theorem hexDigit_ne_hyphen (c : HexCase) (n : BitVec 4) : hexDigit c n ≠ '-' := by
  intro e
  have := e ▸ hexDigit_mem c n
  revert this
  cases c <;> decide

theorem hexByte_eq (c : HexCase) (x : Byte) :
    hexByte c x =
      [(hexDigits c).getD (x.toNat / 16) '?', (hexDigits c).getD (x.toNat % 16) '?'] := by
  have high : (x.extractLsb' 4 4).toNat = x.toNat / 16 := by
    have := x.isLt
    rw [BitVec.extractLsb'_toNat, Nat.shiftRight_eq_div_pow]
    omega
  have low : (x.extractLsb' 0 4).toNat = x.toNat % 16 := by
    rw [BitVec.extractLsb'_toNat, Nat.shiftRight_zero]
  rw [hexByte, hexDigit_eq, hexDigit_eq, high, low]

/-- The text as its five groups of bytes with hyphens between. (By `delta`: Lean's own equation for
`uuidText` takes too long to derive.) -/
theorem uuidText_eq (c : HexCase) (b : UuidBuffer) :
    uuidText c b =
      [b[0], b[1], b[2], b[3]].flatMap (hexByte c) ++ '-' ::
      ([b[4], b[5]].flatMap (hexByte c) ++ '-' ::
      ([b[6], b[7]].flatMap (hexByte c) ++ '-' ::
      ([b[8], b[9]].flatMap (hexByte c) ++ '-' ::
      [b[10], b[11], b[12], b[13], b[14], b[15]].flatMap (hexByte c)))) := by
  delta uuidText
  simp

theorem uuidText_length (c : HexCase) (b : UuidBuffer) : (uuidText c b).length = 36 := by
  rw [uuidText_eq]
  rfl

theorem uuidText_hyphen (c : HexCase) (b : UuidBuffer) {k : Nat} (h : k ∈ [8, 13, 18, 23]) :
    (uuidText c b)[k]? = some '-' := by
  rw [uuidText_eq]
  simp only [List.mem_cons, List.not_mem_nil, or_false] at h
  rcases h with rfl | rfl | rfl | rfl <;> rfl

/-- Off the four hyphen positions the text has digits of its case. -/
theorem uuidText_digit (c : HexCase) (b : UuidBuffer) {k : Nat} (lt : k < 36)
    (h : k ∉ [8, 13, 18, 23]) : ∃ ch ∈ hexDigits c, (uuidText c b)[k]? = some ch := by
  have all : ∀ p ∈ (uuidText c b).zipIdx, p.2 ∉ [8, 13, 18, 23] → p.1 ∈ hexDigits c := by
    simp [uuidText_eq, hexByte]
  have at_k := List.getElem?_eq_getElem (lt.trans_eq (uuidText_length c b).symm)
  exact ⟨_, all _ (List.mk_mem_zipIdx_iff_getElem?.mpr at_k) h, at_k⟩

theorem uuidText_at_14 (c : HexCase) (b : UuidBuffer) :
    (uuidText c b)[14]? = some (hexDigit c (b[6].extractLsb' 4 4)) := by
  rw [uuidText_eq]
  rfl

theorem uuidText_at_19 (c : HexCase) (b : UuidBuffer) :
    (uuidText c b)[19]? = some (hexDigit c (b[8].extractLsb' 4 4)) := by
  rw [uuidText_eq]
  rfl

theorem uuidBuffer_toList (b : UuidBuffer) :
    b.toList = [b[0], b[1], b[2], b[3], b[4], b[5], b[6], b[7],
      b[8], b[9], b[10], b[11], b[12], b[13], b[14], b[15]] := by
  have entries : b.toList = List.ofFn fun k : Fin 16 => b[k] := by
    apply List.ext_getElem
    · simp
    · intro k _ _
      rw [List.getElem_ofFn]
      rfl
  simp [entries, List.ofFn_succ]

/-- The hyphens taken out, the digits of the bytes are left, in order. -/
theorem uuidText_filter (c : HexCase) (b : UuidBuffer) :
    (uuidText c b).filter (fun ch => decide (ch ≠ '-')) = b.toList.flatMap (hexByte c) := by
  simp [uuidText_eq, uuidBuffer_toList, hexByte]

/-- The high nibble after the version is stamped. -/
theorem version_high_nibble (x : Byte) :
    ((x &&& 0x0F#8) ||| 0x40#8).extractLsb' 4 4 = 4#4 := by
  simp [BitVec.extractLsb'_or, BitVec.extractLsb'_and]

/-- The high nibble after the variant is stamped: 10 and the two bits below. -/
theorem variant_high_nibble (x : Byte) :
    ((x &&& 0x3F#8) ||| 0x80#8).extractLsb' 4 4 = (x.extractLsb' 4 4 &&& 3#4) ||| 8#4 := by
  simp [BitVec.extractLsb'_or, BitVec.extractLsb'_and]

theorem hexDigit_variant (c : HexCase) (n : BitVec 4) :
    hexDigit c ((n &&& 3#4) ||| 8#4) ∈ ((hexDigits c).drop 8).take 4 := by
  revert n
  cases c <;> decide

/-- Settles O43: two digits a byte by `hexByte_eq`; the positions by `uuidText_hyphen` and
`uuidText_digit`, the order by `uuidText_filter`, positions 14 and 19 by the stamped nibbles. -/
theorem uuidTextShape : Obligations.UuidTextShape := by
  refine ⟨hexByte_eq, fun c order v0 v1 v2 v3 => ?_⟩
  dsimp only
  refine ⟨uuidText_length c _, fun _ => uuidText_hyphen c _, fun _ => uuidText_digit c _,
    uuidText_filter c _, ?version, ?variant⟩
  case version =>
    rw [uuidText_at_14, uuidBytes, uuidStamp_version, version_high_nibble]
    cases c <;> rfl
  case variant =>
    refine ⟨_, ?_, uuidText_at_19 c _⟩
    rw [uuidBytes, uuidStamp_variant, variant_high_nibble]
    exact hexDigit_variant c _

end Sys2Proof.Machine

/-! PROOFS for 60_exceptions.md R191 to R197: which packets the decoder rejects, what a step makes of
the packet at the port, and what each instruction answers. -/

namespace Sys2Proof.Machine

/-! ### Malformed packets -/

theorem decodeFormatN_ok_iff (p : Packet) (i : Instr) :
    (∃ j, decodeFormatN p i = .ok j) ↔ lenField p.cmd = 0 ∧ p.operands.length = 0 := by
  unfold decodeFormatN
  split
  · next len => cases p.operands <;> simp [len]
  · next len => simp [len]

theorem decodeFormatS_ok_iff (p : Packet) :
    (∃ j, decodeFormatS p = .ok j) ↔ lenField p.cmd = 0 ∧ p.operands.length = 1 := by
  unfold decodeFormatS
  split
  · next len => rcases p.operands with _ | ⟨_, _ | _⟩ <;> simp [len]
  · next len => simp [len]

theorem decodeFormatA_ok_iff (p : Packet) :
    (∃ j, decodeFormatA p = .ok j) ↔ p.operands.length = lenField p.cmd := by
  unfold decodeFormatA
  split
  · next len => simp [len]
  · next len => simp [len]

theorem wellFormed_formatN_iff {p : Packet}
    (opc : opcField p.cmd ∈ [0x03#8, 0x10#8, 0x11#8, 0x12#8, 0x13#8]) :
    ¬ MalformedPacket p ↔ lenField p.cmd = 0 ∧ p.operands.length = 0 := by
  simp only [List.mem_cons, List.not_mem_nil, or_false] at opc
  rcases opc with h | h | h | h | h <;> simp [MalformedPacket, h]

theorem wellFormed_formatS_iff {p : Packet} (opc : opcField p.cmd = 0x01#8) :
    ¬ MalformedPacket p ↔ lenField p.cmd = 0 ∧ p.operands.length = 1 := by
  simp [MalformedPacket, opc]

theorem wellFormed_formatA_iff {p : Packet} (opc : opcField p.cmd = 0x02#8) :
    ¬ MalformedPacket p ↔ p.operands.length = lenField p.cmd := by
  simp [MalformedPacket, opc, Nat.add_comm 1]

/-- The decoder accepts exactly the packets that are not malformed (60_exceptions.md R192), format by
format of the opcode map. -/
theorem decode_ok_iff (p : Packet) : (∃ i, decode p = .ok i) ↔ ¬ MalformedPacket p := by
  have formatN (i : Instr) (opc : opcField p.cmd ∈ [0x03#8, 0x10#8, 0x11#8, 0x12#8, 0x13#8]) :
      (∃ j, decodeFormatN p i = .ok j) ↔ ¬ MalformedPacket p :=
    (decodeFormatN_ok_iff p i).trans (wellFormed_formatN_iff opc).symm
  unfold decode
  split_ifs with seeds seeda seede next32 nextr32 nextr53 nextuuid
  · exact (decodeFormatS_ok_iff p).trans (wellFormed_formatS_iff seeds).symm
  · exact (decodeFormatA_ok_iff p).trans (wellFormed_formatA_iff seeda).symm
  · exact formatN .seede (by simp [seede])
  · exact formatN .next32 (by simp [next32])
  · exact formatN .nextr32 (by simp [nextr32])
  · exact formatN .nextr53 (by simp [nextr53])
  · exact formatN .nextuuid (by simp [nextuuid])
  · simp [MalformedPacket, seeds, seeda, seede, next32, nextr32, nextr53, nextuuid]

theorem decode_error_of_malformed {p : Packet} (h : MalformedPacket p) :
    ∃ r, decode p = .error r := by
  cases e : decode p with
  | error r => exact ⟨r, rfl⟩
  | ok i => exact absurd h ((decode_ok_iff p).mp ⟨i, e⟩)

/-! ### The packet at the port -/

section Packet
variable {s : State} {p : Packet} {rest : List HostEvent}

theorem nextAction_packet (idle : s.waiting = none) (port : s.req = .packet p :: rest) :
    nextAction s = (packetAction p, { s with req := rest }) := by
  simp [nextAction, idle, acceptNext, port]

/-- A packet that decodes is taken off the port and executed (30_encoding.md R76). -/
theorem step_of_decode_ok (idle : s.waiting = none) (port : s.req = .packet p :: rest) {i : Instr}
    (dec : decode p = .ok i) : step s = exec i { s with req := rest } := by
  simp [step, nextAction_packet idle port, packetAction, dec]

/-- A packet that does not decode is discarded and answered, whatever is wrong with it
(60_exceptions.md R192). -/
theorem step_of_decode_error (idle : s.waiting = none) (port : s.req = .packet p :: rest)
    {r : Reject} (dec : decode p = .error r) :
    step s = .next (raise .illegalCommand { s with req := rest }) := by
  have status : rejectStatus r = .illegalCommand := by cases r <;> rfl
  simp [step, nextAction_packet idle port, packetAction, dec, status]

theorem step_of_malformed (idle : s.waiting = none) (port : s.req = .packet p :: rest)
    (h : MalformedPacket p) :
    step s = .next (raise .illegalCommand { s with req := rest }) := by
  obtain ⟨r, dec⟩ := decode_error_of_malformed h
  exact step_of_decode_error idle port dec

end Packet

/-- Settles O5: the answer by `step_of_malformed`, the decoding of every other packet by
`decode_ok_iff`. -/
theorem malformedPacketIsAnsweredIllegalCommand :
    Obligations.MalformedPacketIsAnsweredIllegalCommand :=
  ⟨fun _ _ _ idle port h => step_of_malformed idle port h, fun p => (decode_ok_iff p).mpr⟩

/-! ### What an instruction answers -/

theorem exec_answers_next (i : Instr) (s : State) : ∃ t, exec i s = .next t := by
  cases i with
  | seeda keys => cases keys <;> exact ⟨_, rfl⟩
  | _ => exact ⟨_, rfl⟩

theorem takeEntropy_rsp {e : Nat} {s u : State} {keys : List Word}
    (h : takeEntropy e s = some (keys, u)) : u.rsp = s.rsp := by
  rcases takeEntropy_cases e s with ⟨-, taken⟩ | ⟨-, starved⟩
  · cases taken.symm.trans h; rfl
  · cases starved.symm.trans h

theorem not_delivers_of_takeEntropy_none {e : Nat} {s : State} (h : takeEntropy e s = none) :
    s.entDelivers = false := by
  rcases takeEntropy_cases e s with ⟨-, taken⟩ | ⟨starved, -⟩
  · cases taken.symm.trans h
  · exact (Bool.or_eq_false_iff.mp starved).1

/-- The answer of every instruction: OK, or none yet from a SEEDE whose environment does not deliver,
or one of the two error conditions that a meaning raises (60_exceptions.md R191, R193, R196). -/
theorem exec_answer_cases {i : Instr} {s t : State} (h : exec i s = .next t) :
    (∃ data, t.rsp = s.rsp ++ [statusWord .ok :: data]) ∨
    (i = .seede ∧ s.entDelivers = false ∧ t.rsp = s.rsp) ∨
    (i = .seeda [] ∧ t = raise .invalidArgument s) ∨
    (IsExtraction i ∧ s.seeded = false ∧ t = raise .notSeeded s) := by
  rcases exec_cases h with ⟨seed, -, rfl⟩ | ⟨hi, ht⟩ | ⟨k, ks, -, rfl⟩ | ⟨keys, u, -, taken, rfl⟩ |
    ⟨hi, starved, rfl⟩ | ⟨hi, unseeded, ht⟩ | ⟨-, -, rfl⟩ | ⟨-, -, rfl⟩ | ⟨-, -, rfl⟩
  · exact .inl ⟨[], rfl⟩
  · exact .inr (.inr (.inl ⟨hi, ht⟩))
  · exact .inl ⟨[], rfl⟩
  · exact .inl ⟨[], by rw [← takeEntropy_rsp taken]; rfl⟩
  · exact .inr (.inl ⟨hi, not_delivers_of_takeEntropy_none starved, rfl⟩)
  · exact .inr (.inr (.inr ⟨hi, unseeded, ht⟩))
  · exact .inl ⟨_, by rw [deliverDraw_eq]; rfl⟩
  · exact .inl ⟨_, by rw [deliverReal53_eq, respond_ok_afterDraws]; rfl⟩
  · exact .inl ⟨_, by rw [deliverUuid_eq, respond_ok_afterDraws]; rfl⟩

/-! ### Error answers -/

theorem statusWord_injective : Function.Injective statusWord := by
  intro a b
  cases a <;> cases b <;> decide

/-- A response added last tells its status and its data. -/
theorem answer_inj {rsp : List (List Word)} {a b : Status} {d e : List Word}
    (h : rsp ++ [statusWord a :: d] = rsp ++ [statusWord b :: e]) : a = b ∧ d = e := by
  simp only [List.append_cancel_left_eq, List.cons.injEq, and_true] at h
  obtain ⟨status, data⟩ := h
  exact ⟨statusWord_injective status, data⟩

/-- An error status comes from one of the two conditions the meanings raise, and nothing is done but
the answer (60_exceptions.md R197). -/
theorem exec_error_answer {i : Instr} {s t : State} {st : Status} {data : List Word}
    (h : exec i s = .next t) (error : st ≠ .ok)
    (answer : t.rsp = s.rsp ++ [statusWord st :: data]) :
    data = [] ∧ t = raise st s ∧
      (st = .invalidArgument ∧ i = .seeda [] ∨
        st = .notSeeded ∧ IsExtraction i ∧ s.seeded = false) := by
  rcases exec_answer_cases h with ⟨_, ok⟩ | ⟨-, -, waits⟩ | ⟨hi, rfl⟩ | ⟨hi, unseeded, rfl⟩
  · exact absurd (answer_inj (answer.symm.trans ok)).1 error
  · simp [waits] at answer
  · obtain ⟨rfl, rfl⟩ := answer_inj answer
    exact ⟨rfl, rfl, .inl ⟨rfl, hi⟩⟩
  · obtain ⟨rfl, rfl⟩ := answer_inj answer
    exact ⟨rfl, rfl, .inr ⟨rfl, hi, unseeded⟩⟩

/-- Settles O6: the answer is SEEDA's own, its uniqueness `exec_error_answer` at INVALID_ARGUMENT. -/
theorem invalidArgumentOnlyForSeedaWithoutKeys :
    Obligations.InvalidArgumentOnlyForSeedaWithoutKeys := by
  refine ⟨exec_seeda_nil, fun i s t h answer => ?_⟩
  obtain ⟨-, -, ⟨-, hi⟩ | ⟨status, -⟩⟩ :=
    exec_error_answer (st := .invalidArgument) h (by decide) answer
  · exact hi
  · cases status

/-- Settles O7: the answer by `exec_extraction_unseeded`, its uniqueness by `exec_error_answer` at
NOT_SEEDED. -/
theorem notSeededExactlyForUnseededExtraction :
    Obligations.NotSeededExactlyForUnseededExtraction := by
  refine ⟨fun s i hi => exec_extraction_unseeded hi s, fun i s t h answer => ?_⟩
  obtain ⟨-, -, ⟨status, -⟩ | ⟨-, unseeded⟩⟩ :=
    exec_error_answer (st := .notSeeded) h (by decide) answer
  · cases status
  · exact unseeded

/-- Settles O8: a packet that decodes by `exec_error_answer`, one that does not by
`step_of_decode_error`. -/
theorem errorAnswerChangesNothing : Obligations.ErrorAnswerChangesNothing := by
  intro s t p rest st data idle port taken error answer
  cases dec : decode p with
  | ok i =>
    rw [step_of_decode_ok idle port dec] at taken
    obtain ⟨noData, unchanged, -⟩ := exec_error_answer taken error answer
    exact ⟨noData, unchanged⟩
  | error r =>
    rw [step_of_decode_error idle port dec] at taken
    cases taken
    obtain ⟨rfl, rfl⟩ := answer_inj answer
    exact ⟨rfl, rfl⟩

/-- Nothing stands against the operation, so it runs and ends OK (60_exceptions.md R196). -/
theorem exec_answersOk {i : Instr} {s : State} (keys : i ≠ .seeda [])
    (seeded : IsExtraction i → s.seeded = true) (delivers : i = .seede → s.entDelivers = true) :
    ∃ t data, exec i s = .next t ∧ t.rsp = s.rsp ++ [statusWord .ok :: data] := by
  obtain ⟨t, h⟩ := exec_answers_next i s
  rcases exec_answer_cases h with ⟨data, ok⟩ | ⟨hi, silent, -⟩ | ⟨hi, -⟩ | ⟨hi, unseeded, -⟩
  · exact ⟨t, data, h, ok⟩
  · exact absurd (delivers hi) (by simp [silent])
  · exact absurd hi keys
  · exact absurd (seeded hi) (by simp [unseeded])

/-- Settles O9: a malformed packet by `step_of_malformed`, the two error conditions of the meanings by
their own answers, every other case by `exec_answersOk`; the two examples do not decode. -/
theorem errorPriorityOrder : Obligations.ErrorPriorityOrder := by
  refine ⟨fun s p rest idle port => ⟨fun h => ⟨_, step_of_malformed idle port h, rfl⟩,
    fun i dec => ?_⟩, fun s rest idle _ port => ?_, fun s rest idle port => ?_⟩
  · rw [step_of_decode_ok idle port dec]
    refine ⟨?invalid, fun hi unseeded => ?notSeeded, fun keys seeded delivers => ?ok⟩
    case invalid => rintro rfl; exact ⟨_, exec_seeda_nil _, rfl⟩
    case notSeeded => exact ⟨_, exec_extraction_unseeded hi _ unseeded, rfl⟩
    case ok => exact exec_answersOk keys seeded delivers
  · exact ⟨_, step_of_decode_error idle port (r := .reservedLen) rfl, rfl⟩
  · exact ⟨_, step_of_decode_error idle port (r := .wrongLength) rfl, rfl⟩

end Sys2Proof.Machine

/-! PROOFS for 30_encoding.md R62 to R69: what the decoder accepts, and that it and the encoder undo
each other. -/

namespace Sys2Proof

/-- The packet `p` has the OPC, the LEN and the operand words of the instruction `i`. -/
structure HasFieldsOf (p : Packet) (i : Instr) : Prop where
  opcode : opcField p.cmd = opcodeOf i
  len : lenField p.cmd = lenOf i
  operands : p.operands = operandsOf i

/-! ### The packet of an instruction -/

theorem lenOf_le_of_wellFormed {i : Instr} (wf : i.WellFormed = true) : lenOf i ≤ keyLenMax := by
  cases i with
  | seeda keys => exact of_decide_eq_true wf
  | _ => exact Nat.zero_le _

/-- An encoded well-formed instruction reads back: its key count fits the field LEN. -/
theorem encode_hasFieldsOf {i : Instr} (wf : i.WellFormed = true) : HasFieldsOf (encode i) i where
  opcode := opcField_commandWord _ _
  len := (lenField_commandWord _ _).trans
    (Nat.mod_eq_of_lt (Nat.lt_succ_of_le (lenOf_le_of_wellFormed wf)))
  operands := rfl

/-- A command word is its two fields. -/
theorem commandWord_fields (cmd : Word) : commandWord (opcField cmd) (lenField cmd) = cmd := by
  apply BitVec.eq_of_getLsbD_eq
  intro k hk
  rw [commandWord, lenField, BitVec.ofNat_toNat, BitVec.setWidth_eq]
  rcases Nat.lt_or_ge k 24 with low | high
  · simp [low, hk]
  · simp [opcField, hk, Nat.not_lt.mpr high, Nat.add_sub_cancel' high, show k - 24 < 8 by omega]

theorem HasFieldsOf.encode_eq {p : Packet} {i : Instr} (h : HasFieldsOf p i) : encode i = p := by
  rw [encode, ← h.opcode, ← h.len, ← h.operands, commandWord_fields]

theorem lenField_le (cmd : Word) : lenField cmd ≤ keyLenMax :=
  Nat.le_of_lt_succ (cmd.extractLsb' 0 24).isLt

theorem HasFieldsOf.wellFormed {p : Packet} {i : Instr} (h : HasFieldsOf p i) :
    i.WellFormed = true := by
  cases i with
  | seeda keys => exact decide_eq_true (h.len.symm.trans_le (lenField_le p.cmd))
  | _ => rfl

/-! ### The instruction of a packet -/

/-- The opcode selects the format, and the packet passes the format's own test. -/
theorem HasFieldsOf.decode_eq {p : Packet} {i : Instr} (h : HasFieldsOf p i) :
    decode p = .ok i := by
  obtain ⟨opcode, len, operands⟩ := h
  cases i with
  | seeds seed => simp [decode, opcode, opcodeOf, decodeFormatS, len, lenOf, operands, operandsOf]
  | seeda keys => simp [decode, opcode, opcodeOf, decodeFormatA, len, lenOf, operands, operandsOf]
  | _ => simp [decode, opcode, opcodeOf, decodeFormatN, len, lenOf, operands, operandsOf]

theorem decodeFormatN_eq_ok {p : Packet} {i j : Instr} (h : decodeFormatN p i = .ok j) :
    lenField p.cmd = 0 ∧ p.operands = [] ∧ j = i := by
  unfold decodeFormatN at h
  split at h
  · next len =>
    split at h
    · next ops => cases h; exact ⟨len, ops, rfl⟩
    · cases h
  · cases h

theorem decodeFormatS_eq_ok {p : Packet} {j : Instr} (h : decodeFormatS p = .ok j) :
    lenField p.cmd = 0 ∧ ∃ seed, p.operands = [seed] ∧ j = .seeds seed := by
  unfold decodeFormatS at h
  split at h
  · next len =>
    split at h
    · next seed ops => cases h; exact ⟨len, seed, ops, rfl⟩
    · cases h
  · cases h

theorem decodeFormatA_eq_ok {p : Packet} {j : Instr} (h : decodeFormatA p = .ok j) :
    lenField p.cmd = p.operands.length ∧ j = .seeda p.operands := by
  unfold decodeFormatA at h
  split at h
  · next len => cases h; exact ⟨len.symm, rfl⟩
  · cases h

/-- The decoder looks at the whole packet, so what it accepts has the instruction's own fields. -/
theorem hasFieldsOf_of_decode {p : Packet} {i : Instr} (h : decode p = .ok i) :
    HasFieldsOf p i := by
  have formatN {j : Instr} (opcode : opcField p.cmd = opcodeOf j) (noLen : lenOf j = 0)
      (noOperands : operandsOf j = []) (hj : decodeFormatN p j = .ok i) : HasFieldsOf p i := by
    obtain ⟨len, operands, rfl⟩ := decodeFormatN_eq_ok hj
    exact ⟨opcode, len.trans noLen.symm, operands.trans noOperands.symm⟩
  unfold decode at h
  split_ifs at h with seeds seeda seede next32 nextr32 nextr53 nextuuid
  · obtain ⟨len, seed, operands, rfl⟩ := decodeFormatS_eq_ok h
    exact ⟨seeds, len, operands⟩
  · obtain ⟨len, rfl⟩ := decodeFormatA_eq_ok h
    exact ⟨seeda, len, rfl⟩
  · exact formatN (j := .seede) seede rfl rfl h
  · exact formatN (j := .next32) next32 rfl rfl h
  · exact formatN (j := .nextr32) nextr32 rfl rfl h
  · exact formatN (j := .nextr53) nextr53 rfl rfl h
  · exact formatN (j := .nextuuid) nextuuid rfl rfl h

/-! ### The obligations -/

/-- Settles O1: the encoded packet has the instruction's fields (`encode_hasFieldsOf`), and by those
the decoder finds it. -/
theorem decodeOfEncode : Obligations.DecodeOfEncode := fun _ wf => (encode_hasFieldsOf wf).decode_eq

/-- Settles O2: the packet has the fields of the instruction decoded from it
(`hasFieldsOf_of_decode`), and a command word is its fields. -/
theorem encodeOfDecode : Obligations.EncodeOfDecode := fun _ _ h =>
  ⟨(hasFieldsOf_of_decode h).wellFormed, (hasFieldsOf_of_decode h).encode_eq⟩

/-- Settles O3: eleven closed packets, by evaluation of the decoder. -/
theorem decodeOfWrittenOutPackets : Obligations.DecodeOfWrittenOutPackets := by
  unfold Obligations.DecodeOfWrittenOutPackets
  decide

end Sys2Proof

/-! PROOFS for 40_arithmetic.md R94: the limb form of the product. -/

namespace Sys2Proof.Machine

/-- The product of two numbers from their halves: the high halves' product is a multiple of 2^32. -/
theorem mul_limbs (a b : Nat) :
    a * b = (a / 2 ^ 16 * (b % 2 ^ 16) + a % 2 ^ 16 * (b / 2 ^ 16)) * 2 ^ 16
      + a % 2 ^ 16 * (b % 2 ^ 16) + 2 ^ 32 * (a / 2 ^ 16 * (b / 2 ^ 16)) := by
  conv_lhs => rw [← Nat.div_add_mod a (2 ^ 16), ← Nat.div_add_mod b (2 ^ 16)]
  ring

/-- Settles O19: modulo 2^32 the high halves' product vanishes (`mul_limbs`), and of the cross
products, shifted by 16 bits, only what is left modulo 2^16 counts. -/
theorem limbSplitIsTheProduct : Obligations.LimbSplitIsTheProduct := by
  intro a b
  apply BitVec.eq_of_toNat_eq
  have cross (c : Nat) : c % 2 ^ 16 * 2 ^ 16 ≡ c * 2 ^ 16 [MOD 2 ^ 32] :=
    (Nat.mod_modEq c (2 ^ 16)).mul_right' (2 ^ 16)
  rw [mulLimb, BitVec.toNat_ofNat, BitVec.toNat_mul, mul_limbs a.toNat b.toNat,
    Nat.add_mul_mod_self_left]
  exact (cross _).add_right _

end Sys2Proof.Machine

/-! PROOFS for 41_seeding.md section 4 and R117, 42_twist.md section 3: the counters of the array
path, the words of the scalar path, and that seeding forgets the old state. -/

namespace Sys2Proof.Machine

/-! ### The counters of the array path -/

/-- Counting on from `n mod L` with the wrap at `L`. -/
theorem mod_count_succ (n : Nat) {L : Nat} (pos : 0 < L) :
    (if L ≤ n % L + 1 then 0 else n % L + 1) = (n + 1) % L := by
  rw [← Nat.mod_add_mod]
  split
  · next wraps =>
    have full : n % L + 1 = L := Nat.le_antisymm (Nat.mod_lt n pos) wraps
    rw [full, Nat.mod_self]
  · next below => rw [Nat.mod_eq_of_lt (Nat.lt_of_not_le below)]

theorem pass1After_i (keys : List Word) (w : Words) (n : Nat) :
    (pass1After keys n w).i = 1 + n % 623 := by
  induction n with
  | zero => rfl
  | succ n ih =>
    rw [pass1After_succ, pass1Step_i, ih]
    split <;> omega

theorem pass1After_j {keys : List Word} (nonempty : keys ≠ []) (w : Words) (n : Nat) :
    (pass1After keys n w).j = n % keys.length := by
  induction n with
  | zero => exact (Nat.zero_mod _).symm
  | succ n ih =>
    rw [pass1After_succ, pass1Step_j, ih, mod_count_succ n (List.length_pos_of_ne_nil nonempty)]

theorem pass2After_i (keys : List Word) (w : Words) (n : Nat) :
    (pass2After keys n w).i = 1 + (max 624 keys.length + n) % 623 := by
  induction n with
  | zero => exact pass1After_i keys w _
  | succ n ih =>
    rw [pass2After_succ, pass2Step_i, ih]
    split <;> omega

/-- Settles O24: each counter by induction on the iterations, by its own step. -/
theorem passCountersInClosedForm : Obligations.PassCountersInClosedForm := fun keys w n nonempty =>
  ⟨pass1After_i keys w n, pass1After_j nonempty w n, pass2After_i keys w n⟩

/-! ### The words of the scalar path -/

/-- A zero word is followed by its own number, which is not zero. -/
theorem ScalarFilled.ne_zero_of_prev {seed : Word} {w : Words} (h : ScalarFilled seed 624 w)
    {i : Nat} (pos : 1 ≤ i) (le : i ≤ 623) (zero : readW w (i - 1) = 0#32) : readW w i ≠ 0#32 := by
  have number : BitVec.ofNat 32 i ≠ 0#32 := by
    rw [Ne, ← BitVec.toNat_inj, BitVec.toNat_ofNat, Nat.mod_eq_of_lt (by omega)]
    exact Nat.ne_of_gt pos
  rw [h.later i pos (Nat.lt_succ_of_le le), zero, show mix30 0#32 = 0#32 by decide,
    BitVec.mul_zero, BitVec.zero_add]
  exact number

/-- Settles O25: of a pair of zero words the second would be its own number
(`ScalarFilled.ne_zero_of_prev`). -/
theorem scalarSeedLeavesNoTwoAdjacentZeroWords :
    Obligations.ScalarSeedLeavesNoTwoAdjacentZeroWords := fun w seed _ pos le ⟨prev, zero⟩ =>
  (scalarInit_filled w seed).ne_zero_of_prev pos le prev zero

/-! ### Seeding forgets the old state -/

/-- The seed determines every word of the scalar path. -/
theorem ScalarFilled.unique {seed : Word} {w v : Words} (hw : ScalarFilled seed 624 w)
    (hv : ScalarFilled seed 624 v) : w = v := by
  refine words_ext fun k => ?_
  induction k with
  | zero => exact fun _ => hw.first.trans hv.first.symm
  | succ k ih =>
    intro lt
    rw [hw.later _ (Nat.le_add_left 1 k) lt, hv.later _ (Nat.le_add_left 1 k) lt,
      Nat.add_sub_cancel, ih (Nat.lt_of_succ_lt lt)]

theorem scalarInit_forgets (w v : Words) (seed : Word) : scalarInit w seed = scalarInit v seed :=
  (scalarInit_filled w seed).unique (scalarInit_filled v seed)

/-- The array path begins with a scalar path (41_seeding.md R113). -/
theorem arrayInit_forgets (w v : Words) (keys : List Word) :
    arrayInit w keys = arrayInit v keys := by
  rw [arrayInit_eq_pass2After, arrayInit_eq_pass2After, pass2After, pass2After, pass1After,
    pass1After, scalarInit_forgets w v]

section Forgets
variable (s : State) (w : Words) (ix : Fin 625) (sd : Bool)

theorem exec_seeds_forgets (seed : Word) :
    exec (.seeds seed) { s with W := w, index := ix, seeded := sd } = exec (.seeds seed) s := by
  rw [exec_seeds, exec_seeds, scalarInit_forgets w s.W]
  rfl

theorem seedFromKeys_forgets (keys : List Word) :
    seedFromKeys keys { s with W := w, index := ix, seeded := sd } = seedFromKeys keys s := by
  rw [seedFromKeys, seedFromKeys, arrayInit_forgets w s.W]
  rfl

/-- Which words SEEDE takes depends on ENT and on those taken before only. -/
theorem takeEntropy_with (e : Nat) :
    takeEntropy e { s with W := w, index := ix, seeded := sd } =
      (takeEntropy e s).map fun (keys, t) =>
        (keys, { t with W := w, index := ix, seeded := sd }) := by
  rcases takeEntropy_cases e s with ⟨hand, taken⟩ | ⟨starved, nothing⟩
  · rw [taken]
    exact if_pos hand
  · rw [nothing]
    exact if_neg (Bool.eq_false_iff.mp starved)

theorem exec_seede_forgets {keys : List Word} {t : State}
    (taken : takeEntropy Config.autoSeedWords s = some (keys, t)) :
    exec .seede { s with W := w, index := ix, seeded := sd } = exec .seede s := by
  rw [exec_seede, exec_seede, seedFromEntropy, seedFromEntropy, takeEntropy_with, taken]
  exact congrArg _ (seedFromKeys_forgets t w ix sd keys)

end Forgets

theorem takeEntropy_of_delivers {e : Nat} {s : State} (delivers : s.entDelivers = true) :
    ∃ keys t, takeEntropy e s = some (keys, t) := by
  cases h : takeEntropy e s with
  | some taken => exact ⟨_, _, rfl⟩
  | none => cases delivers.symm.trans (not_delivers_of_takeEntropy_none h)

/-- Settles O26: the words written do not depend on those before (`scalarInit_forgets`,
`arrayInit_forgets`), nor do the words SEEDE takes. -/
theorem seedingIgnoresTheOldState : Obligations.SeedingIgnoresTheOldState := by
  refine fun s w ix sd => ⟨exec_seeds_forgets s w ix sd, fun k ks => ?_, fun delivers => ?_⟩
  · exact congrArg Host.Outcome.next (seedFromKeys_forgets s w ix sd (k :: ks))
  · obtain ⟨keys, t, taken⟩ := takeEntropy_of_delivers delivers
    exact exec_seede_forgets s w ix sd taken

end Sys2Proof.Machine

/-! PROOFS for 42_twist.md R145, R148 and R149: the twist as one loop, the bits it reads, and that
it keeps degeneracy. -/

namespace Sys2Proof.Machine

/-! ### One loop -/

/-- Loops whose bodies agree on the counters they run over are the same. -/
theorem forRange_congr {σ : Type} {a n : Nat} {f g : Nat → σ → σ} (s : σ)
    (same : ∀ k t, a ≤ k → k < a + n → f k t = g k t) : forRange a n f s = forRange a n g s := by
  induction n with
  | zero => rfl
  | succ n ih =>
    rw [forRange_last, forRange_last, ih fun k t ge lt => same k t ge (by omega),
      same _ _ (by omega) (by omega)]

/-- The body of the uniform loop (42_twist.md R145). -/
def uniformTwistAt (k : Nat) (v : Words) : Words :=
  writeW v k (twistWord (readW v k) (readW v ((k + 1) % 624)) (readW v ((k + 397) % 624)))

theorem twistUniform_eq (w : Words) : twistUniform w = forRange 0 624 uniformTwistAt w := rfl

/-- A step of any part is the uniform body, when its indices are those modulo 624. -/
theorem twistAt_eq_uniform (v : Words) {k next src : Nat} (hnext : next = (k + 1) % 624)
    (hsrc : src = (k + 397) % 624) : twistAt v k next src = uniformTwistAt k v := by
  rw [hnext, hsrc]
  rfl

/-- Settles O32: the loop is cut at 227 and at 623; in each part the indices modulo 624 are those of
the part. -/
theorem twistIsOneUniformLoop : Obligations.TwistIsOneUniformLoop := by
  intro w
  have range1 : twistRange1 w = forRange 0 227 uniformTwistAt w :=
    forRange_congr w fun k v _ _ => twistAt_eq_uniform v (by omega) (by omega)
  have range2 (u : Words) : twistRange2 u = forRange 227 396 uniformTwistAt u :=
    forRange_congr u fun k v _ _ => twistAt_eq_uniform v (by omega) (by omega)
  have final (u : Words) : twistFinal u = uniformTwistAt 623 u :=
    twistAt_eq_uniform u rfl rfl
  rw [twistUniform_eq, forRange_last 0 623, forRange_add 0 227 396, ← range1, ← range2, ← final]
  unfold twist
  rfl

/-! ### The bits read -/

/-- Of its first argument Combine reads bit 31 only. -/
theorem combine_congr {u u' : Word} (top : u.getLsbD 31 = u'.getLsbD 31) (l : Word) :
    combine u l = combine u' l := by
  apply BitVec.eq_of_getLsbD_eq
  intro k hk
  rcases Nat.lt_or_ge k 31 with low | high
  · rw [combine_getLsbD_low _ _ low, combine_getLsbD_low _ _ low]
  · obtain rfl : k = 31 := by omega
    rw [combine_getLsbD_top, combine_getLsbD_top, top]

/-- The two vectors give the twist the same bits: bit 31 of `W[0]`, and all of `W[1..623]`. -/
structure SameForTwist (w v : Words) : Prop where
  top : (readW w 0).getLsbD 31 = (readW v 0).getLsbD 31
  words : ∀ k, 1 ≤ k → readW w k = readW v k

theorem SameForTwist.twistWord_eq {w v : Words} (h : SameForTwist w v) (k : Nat) (s : Word) :
    twistWord (readW w k) (readW w (k + 1)) s = twistWord (readW v k) (readW v (k + 1)) s := by
  have same : combine (readW w k) (readW w (k + 1)) = combine (readW v k) (readW v (k + 1)) := by
    rw [h.words (k + 1) (Nat.le_add_left 1 k)]
    cases k with
    | zero => exact combine_congr h.top _
    | succ k => rw [h.words (k + 1) (Nat.le_add_left 1 k)]
  rw [twistWord, same]
  rfl

/-- The twist is a function of those bits: each new word by the new words before it. -/
theorem SameForTwist.twist_eq {w v : Words} (h : SameForTwist w v) : twist w = twist v := by
  have below (k : Nat) (lt : k < 623) : readW (twist w) k = readW (twist v) k := by
    induction k using Nat.strongRecOn with
    | ind k ih =>
      have operand : twistOperand w (twist w) k = twistOperand v (twist v) k := by
        rcases Nat.lt_or_ge k 227 with range1 | range2
        · rw [twistOperand_range1 _ _ range1, twistOperand_range1 _ _ range1,
            h.words _ (by omega)]
        · rw [twistOperand_range2 _ _ range2, twistOperand_range2 _ _ range2,
            ih _ (by omega) (by omega)]
      rw [twist_word w lt, twist_word v lt, operand, h.twistWord_eq]
  refine words_ext fun k lt => ?_
  rcases Nat.lt_or_ge k 623 with hk | hk
  · exact below k hk
  · obtain rfl : k = 623 := by omega
    rw [twist_last_word, twist_last_word, below 0 (by decide), below 396 (by decide),
      h.words 623 (by decide)]

/-- Settles O33: the replaced word keeps bit 31, all the twist reads of it
(`SameForTwist.twist_eq`). -/
theorem twistIgnoresTheLowBitsOfWordZero : Obligations.TwistIgnoresTheLowBitsOfWordZero :=
  fun w v top => SameForTwist.twist_eq
    { top := by rw [readW_writeW_same w 0 v (by decide), top]
      words := fun k pos => readW_writeW_other w 0 k v (Nat.ne_of_gt pos) }

/-! ### Degeneracy -/

theorem combine_eq_zero_iff (u l : Word) :
    combine u l = 0#32 ↔ u.getLsbD 31 = false ∧ ∀ k, k < 31 → l.getLsbD k = false := by
  constructor
  · intro zero
    refine ⟨?_, fun k low => ?_⟩
    · rw [← combine_getLsbD_top u l, zero, BitVec.getLsbD_zero]
    · rw [← combine_getLsbD_low u l low, zero, BitVec.getLsbD_zero]
  · rintro ⟨top, low⟩
    apply BitVec.eq_of_getLsbD_eq
    intro k hk
    rw [BitVec.getLsbD_zero]
    rcases Nat.lt_or_ge k 31 with below | above
    · rw [combine_getLsbD_low u l below, low k below]
    · obtain rfl : k = 31 := by omega
      rw [combine_getLsbD_top, top]

/-- A word is zero when Combine finds nothing in its upper bit and nothing in its lower bits. -/
theorem eq_zero_of_combine {x u l : Word} (upper : combine x l = 0#32)
    (lower : combine u x = 0#32) : x = 0#32 := by
  obtain ⟨top, -⟩ := (combine_eq_zero_iff x l).mp upper
  obtain ⟨-, low⟩ := (combine_eq_zero_iff u x).mp lower
  apply BitVec.eq_of_getLsbD_eq
  intro k hk
  rw [BitVec.getLsbD_zero]
  rcases Nat.lt_or_ge k 31 with below | above
  · exact low k below
  · obtain rfl : k = 31 := by omega
    exact top

/-- The shift with its feedback loses nothing: the bit shifted out shows in bit 31, by
`MATRIX_A`. -/
theorem shift_xor_magic_eq_zero {y : Word} (h : y >>> 1 ^^^ magic y = 0#32) : y = 0#32 := by
  cases odd : y.getLsbD 0 with
  | true =>
    have top := congrArg (BitVec.getLsbD · 31) h
    simp [magic_of_odd odd, matrixA] at top
  | false =>
    rw [magic_of_even odd, BitVec.xor_zero] at h
    apply BitVec.eq_of_getLsbD_eq
    intro k _
    rw [BitVec.getLsbD_zero]
    cases k with
    | zero => exact odd
    | succ k => rw [← BitVec.getLsbD_zero (w := 32) (i := k), ← h, BitVec.getLsbD_ushiftRight,
        Nat.add_comm]

/-- TwistWord adds nothing exactly where Combine gives zero. -/
theorem twistWord_eq_self_iff (u l s : Word) : twistWord u l s = s ↔ combine u l = 0#32 := by
  rw [twistWord, BitVec.xor_assoc]
  constructor
  · intro same
    exact shift_xor_magic_eq_zero (by simpa using same)
  · intro zero
    rw [zero, show 0#32 >>> 1 ^^^ magic 0#32 = 0#32 by decide, BitVec.xor_zero]

theorem degenerate_iff (w : Words) :
    ¬ Nondegenerate w ↔
      (readW w 0).getLsbD 31 = false ∧ ∀ k, 1 ≤ k → k ≤ 623 → readW w k = 0#32 := by
  simp [Nondegenerate]

/-- Degenerate words give the twist no bit: Combine is zero at every step. -/
theorem combine_eq_zero_of_degenerate {w : Words} (h : ¬ Nondegenerate w) {k : Nat} (lt : k < 623) :
    combine (readW w k) (readW w (k + 1)) = 0#32 := by
  obtain ⟨top, zero⟩ := (degenerate_iff w).mp h
  rw [combine_eq_zero_iff, zero (k + 1) (Nat.le_add_left 1 k) lt]
  refine ⟨?_, fun _ _ => BitVec.getLsbD_zero⟩
  cases k with
  | zero => exact top
  | succ k => rw [zero (k + 1) (Nat.le_add_left 1 k) (by omega), BitVec.getLsbD_zero]

/-- Degenerate words are twisted to zeros, in the order of the twist: each new word is its first
operand, an old zero or a new one. -/
theorem twist_word_of_degenerate {w : Words} (h : ¬ Nondegenerate w) {k : Nat} (le : k ≤ 623) :
    readW (twist w) k = 0#32 := by
  obtain ⟨-, zero⟩ := (degenerate_iff w).mp h
  induction k using Nat.strongRecOn with
  | ind k ih =>
    rcases Nat.lt_or_eq_of_le le with lt | rfl
    · rw [twist_word w lt, (twistWord_eq_self_iff _ _ _).mpr (combine_eq_zero_of_degenerate h lt)]
      rcases Nat.lt_or_ge k 227 with range1 | range2
      · rw [twistOperand_range1 _ _ range1, zero _ (by omega) (by omega)]
      · rw [twistOperand_range2 _ _ range2, ih _ (by omega) (by omega)]
    · rw [twist_last_word, zero 623 (by decide) (by decide), ih 0 (by decide) (by decide),
        ih 396 (by decide) (by decide)]
      decide

/-- A step whose new word and first operand are both zero has found no bit to combine. -/
theorem combine_eq_zero_of_twist {w : Words} {k : Nat} (lt : k < 623)
    (zero : readW (twist w) k = 0#32) (operand : twistOperand w (twist w) k = 0#32) :
    combine (readW w k) (readW w (k + 1)) = 0#32 := by
  rw [twist_word w lt, operand] at zero
  exact (twistWord_eq_self_iff _ _ _).mp zero

/-- Degenerate words come from degenerate words. The steps are undone from the last to the first:
the last one shows that `W[0]` is zero, those of range 2 that the old words above 227 were, those of
range 1 the rest. -/
theorem degenerate_of_twist {w : Words} (h : ¬ Nondegenerate (twist w)) : ¬ Nondegenerate w := by
  obtain ⟨top, pos⟩ := (degenerate_iff (twist w)).mp h
  have last : combine (readW w 623) (readW (twist w) 0) = 0#32 := by
    have zero := pos 623 (by decide) (by decide)
    rw [twist_last_word, pos 396 (by decide) (by decide)] at zero
    exact (twistWord_eq_self_iff _ _ _).mp zero
  have new (k : Nat) (le : k ≤ 623) : readW (twist w) k = 0#32 := by
    rcases Nat.eq_zero_or_pos k with rfl | positive
    · exact eq_zero_of_combine (l := 0#32)
        ((combine_eq_zero_iff _ _).mpr ⟨top, fun _ _ => BitVec.getLsbD_zero⟩) last
    · exact pos k positive le
  have range2 (k : Nat) (ge : 227 ≤ k) (lt : k < 623) :
      combine (readW w k) (readW w (k + 1)) = 0#32 :=
    combine_eq_zero_of_twist lt (new k (by omega))
      ((twistOperand_range2 w _ ge).trans (new _ (by omega)))
  have old (k : Nat) (ge : 228 ≤ k) (le : k ≤ 623) : readW w k = 0#32 := by
    have lower := range2 (k - 1) (by omega) (by omega)
    rw [Nat.sub_add_cancel (by omega)] at lower
    rcases Nat.lt_or_eq_of_le le with lt | rfl
    · exact eq_zero_of_combine (range2 k (by omega) lt) lower
    · exact eq_zero_of_combine last lower
  have all (k : Nat) (lt : k < 623) : combine (readW w k) (readW w (k + 1)) = 0#32 := by
    rcases Nat.lt_or_ge k 227 with range1 | ge
    · exact combine_eq_zero_of_twist lt (new k (by omega))
        ((twistOperand_range1 w _ range1).trans (old _ (by omega) (by omega)))
    · exact range2 k ge lt
  refine (degenerate_iff w).mpr
    ⟨((combine_eq_zero_iff _ _).mp (all 0 (by decide))).1, fun k positive le => ?_⟩
  rcases Nat.lt_or_ge k 228 with below | ge
  · have lower := all (k - 1) (by omega)
    rw [Nat.sub_add_cancel positive] at lower
    exact eq_zero_of_combine (all k (by omega)) lower
  · exact old k ge le

/-- Settles O34: by the degenerate vectors, which the twist makes zero (`twist_word_of_degenerate`)
and makes from degenerate ones only (`degenerate_of_twist`). -/
theorem twistKeepsNondegeneracy : Obligations.TwistKeepsNondegeneracy := by
  intro w
  refine not_iff_not.mp ⟨degenerate_of_twist, fun h => (degenerate_iff (twist w)).mpr ⟨?_, ?_⟩⟩
  · rw [twist_word_of_degenerate h (Nat.zero_le 623), BitVec.getLsbD_zero]
  · exact fun k _ le => twist_word_of_degenerate h le

end Sys2Proof.Machine

/-! PROOFS for 43_output.md section 2: tempering loses nothing, and the data words of NEXTUUID. -/

namespace Sys2Proof.Machine

/-! ### Tempering -/

/-- XOR with the word shifted right loses nothing: from the top down, each bit is the result's bit
corrected by a bit already known. -/
theorem xor_ushiftRight_injective {n : Nat} (pos : 0 < n) :
    Function.Injective fun y : Word => y ^^^ (y >>> n) := by
  intro x y same
  have bit (d k : Nat) (hd : d + k = 31) : x.getLsbD k = y.getLsbD k := by
    induction d using Nat.strongRecOn generalizing k with
    | ind d ih =>
      have at_k := congrArg (BitVec.getLsbD · k) same
      simp only [xor_ushiftRight_getLsbD] at at_k
      by_cases above : k < 32 - n
      · simpa [ih (d - n) (by omega) (k + n) (by omega)] using at_k
      · simpa [above] using at_k
  exact BitVec.eq_of_getLsbD_eq fun k hk => bit (31 - k) k (by omega)

/-- XOR with the word shifted left under a mask loses nothing: the same from the bottom up. -/
theorem xor_shiftLeft_and_injective {n : Nat} (pos : 0 < n) (mask : Word) :
    Function.Injective fun y : Word => y ^^^ ((y <<< n) &&& mask) := by
  intro x y same
  refine BitVec.eq_of_getLsbD_eq fun k => ?_
  induction k using Nat.strongRecOn with
  | ind k ih =>
    intro hk
    have at_k := congrArg (BitVec.getLsbD · k) same
    simp only [xor_shiftLeft_and_getLsbD _ _ _ _ hk] at at_k
    by_cases below : n ≤ k
    · simpa [ih (k - n) (by omega) (by omega)] using at_k
    · simpa [below] using at_k

/-- Settles O37: each of the four steps loses nothing, so they are taken back from the last to the
first. -/
theorem temperIsInjective : Obligations.TemperIsInjective := by
  intro x y same
  apply xor_ushiftRight_injective (n := 11) (by decide)
  apply xor_shiftLeft_and_injective (n := 7) (by decide) temperB
  apply xor_shiftLeft_and_injective (n := 15) (by decide) temperC
  exact xor_ushiftRight_injective (n := 18) (by decide) same

/-! ### The data words of NEXTUUID -/

/-- A byte of a word, back at its place in a word of its own. -/
theorem byteOf_placed_getLsbD (v : Word) (j : Nat) {k : Nat} (hk : k < 32) :
    ((byteOf v j).setWidth 32 <<< (8 * j)).getLsbD k =
      (decide (8 * j ≤ k ∧ k < 8 * j + 8) && v.getLsbD k) := by
  rw [BitVec.getLsbD_shiftLeft, BitVec.getLsbD_setWidth, byteOf, BitVec.getLsbD_extractLsb']
  by_cases above : 8 * j ≤ k
  · rw [Nat.add_sub_cancel' above]
    simp [hk, above, show k - 8 * j < 32 by omega, show k - 8 * j < 8 ↔ k < 8 * j + 8 by omega]
  · simp [above, Nat.lt_of_not_le above]

/-- A word is its four bytes, the highest first. -/
theorem packWord_bytes (v : Word) :
    packWord (byteOf v 3) (byteOf v 2) (byteOf v 1) (byteOf v 0) = v := by
  apply BitVec.eq_of_getLsbD_eq
  intro k hk
  have unshifted : (byteOf v 0).setWidth 32 = (byteOf v 0).setWidth 32 <<< (8 * 0) :=
    (BitVec.shiftLeft_zero _).symm
  rw [packWord, unshifted, BitVec.getLsbD_or, BitVec.getLsbD_or, BitVec.getLsbD_or,
    byteOf_placed_getLsbD v 3 hk, byteOf_placed_getLsbD v 2 hk, byteOf_placed_getLsbD v 1 hk,
    byteOf_placed_getLsbD v 0 hk, ← Bool.and_or_distrib_right, ← Bool.and_or_distrib_right,
    ← Bool.and_or_distrib_right, ← Bool.decide_or, ← Bool.decide_or, ← Bool.decide_or,
    decide_eq_true (by omega), Bool.true_and]

/-- The words of the stamped buffer in big order, byte by byte. -/
theorem uuidWords_big (v0 v1 v2 v3 : Word) :
    uuidWords (uuidBytes .big v0 v1 v2 v3) =
      [packWord (byteOf v0 3) (byteOf v0 2) (byteOf v0 1) (byteOf v0 0),
       packWord (byteOf v1 3) (byteOf v1 2) ((byteOf v1 1 &&& 0x0F#8) ||| 0x40#8) (byteOf v1 0),
       packWord ((byteOf v2 3 &&& 0x3F#8) ||| 0x80#8) (byteOf v2 2) (byteOf v2 1) (byteOf v2 0),
       packWord (byteOf v3 3) (byteOf v3 2) (byteOf v3 1) (byteOf v3 0)] := rfl

/-- The words of the stamped buffer in little order, byte by byte. -/
theorem uuidWords_little (v0 v1 v2 v3 : Word) :
    uuidWords (uuidBytes .little v0 v1 v2 v3) =
      [packWord (byteOf v0 0) (byteOf v0 1) (byteOf v0 2) (byteOf v0 3),
       packWord (byteOf v1 0) (byteOf v1 1) ((byteOf v1 2 &&& 0x0F#8) ||| 0x40#8) (byteOf v1 3),
       packWord ((byteOf v2 0 &&& 0x3F#8) ||| 0x80#8) (byteOf v2 1) (byteOf v2 2) (byteOf v2 3),
       packWord (byteOf v3 0) (byteOf v3 1) (byteOf v3 2) (byteOf v3 3)] := rfl

/-- Overwriting under a mask works byte by byte. -/
theorem byteOf_overwrite (v mask stamp : Word) (k : Nat) :
    byteOf ((v &&& mask) ||| stamp) k = (byteOf v k &&& byteOf mask k) ||| byteOf stamp k :=
  BitVec.extractLsb'_or.trans (congrArg (· ||| _) BitVec.extractLsb'_and)

/-- A byte whose mask is full and whose stamp is zero is kept. -/
theorem byteOf_kept (v : Word) {mask stamp : Word} {k : Nat} (full : byteOf mask k = 0xFF#8)
    (zero : byteOf stamp k = 0x00#8) : byteOf ((v &&& mask) ||| stamp) k = byteOf v k := by
  rw [byteOf_overwrite, full, zero, BitVec.or_zero]
  exact BitVec.and_allOnes

/-- Settles O42: both sides byte by byte, the masks of the closed form keeping every byte but the
stamped one (`byteOf_kept`); in big order a word is its own bytes (`packWord_bytes`). -/
theorem uuidWordsInClosedForm : Obligations.UuidWordsInClosedForm := by
  refine fun v0 v1 v2 v3 => ⟨?big, ?little⟩
  case big =>
    have version : (v1 &&& 0xFFFF0FFF#32) ||| 0x00004000#32 = packWord (byteOf v1 3) (byteOf v1 2)
        ((byteOf v1 1 &&& 0x0F#8) ||| 0x40#8) (byteOf v1 0) := by
      rw [← packWord_bytes ((v1 &&& _) ||| _), byteOf_kept v1 (k := 3) rfl rfl,
        byteOf_kept v1 (k := 2) rfl rfl, byteOf_overwrite, byteOf_kept v1 (k := 0) rfl rfl]
      rfl
    have variant : (v2 &&& 0x3FFFFFFF#32) ||| 0x80000000#32 =
        packWord ((byteOf v2 3 &&& 0x3F#8) ||| 0x80#8) (byteOf v2 2) (byteOf v2 1)
          (byteOf v2 0) := by
      rw [← packWord_bytes ((v2 &&& _) ||| _), byteOf_overwrite, byteOf_kept v2 (k := 2) rfl rfl,
        byteOf_kept v2 (k := 1) rfl rfl, byteOf_kept v2 (k := 0) rfl rfl]
      rfl
    rw [uuidWords_big, packWord_bytes, packWord_bytes, version, variant]
  case little =>
    have version : bswap ((v1 &&& 0xFF0FFFFF#32) ||| 0x00400000#32) =
        packWord (byteOf v1 0) (byteOf v1 1) ((byteOf v1 2 &&& 0x0F#8) ||| 0x40#8)
          (byteOf v1 3) := by
      rw [bswap, byteOf_kept v1 (k := 0) rfl rfl, byteOf_kept v1 (k := 1) rfl rfl,
        byteOf_overwrite, byteOf_kept v1 (k := 3) rfl rfl]
      rfl
    have variant : bswap ((v2 &&& 0xFFFFFF3F#32) ||| 0x00000080#32) =
        packWord ((byteOf v2 0 &&& 0x3F#8) ||| 0x80#8) (byteOf v2 1) (byteOf v2 2)
          (byteOf v2 3) := by
      rw [bswap, byteOf_overwrite, byteOf_kept v2 (k := 1) rfl rfl,
        byteOf_kept v2 (k := 2) rfl rfl, byteOf_kept v2 (k := 3) rfl rfl]
      rfl
    rw [uuidWords_little, version, variant]
    rfl

end Sys2Proof.Machine

/-! PROOFS for 43_output.md R167, R168: runs of draws, within a block and over block ends, and the
frame of the extraction commands. -/

namespace Sys2Proof.Machine

/-! ### One draw after another -/

/-- Draws touch `W` and `index` only. -/
theorem afterDraws_frame (n : Nat) (s : State) :
    afterDraws n s = { s with W := (afterDraws n s).W, index := (afterDraws n s).index } := by
  induction n with
  | zero => rfl
  | succ n ih =>
    rw [afterDraws, draw_frame, ih]

theorem afterDraws_succ (n : Nat) (s : State) :
    afterDraws (n + 1) s = (readAdvance (regenerate (afterDraws n s))).2 := rfl

theorem nthDraw_eq (n : Nat) (s : State) :
    nthDraw n s = temper (readW (regenerate (afterDraws n s)).W
      (regenerate (afterDraws n s)).index.val) := rfl

theorem afterDraws_succ_W (n : Nat) (s : State) :
    (afterDraws (n + 1) s).W = (regenerate (afterDraws n s)).W := rfl

theorem afterDraws_succ_index (n : Nat) (s : State) :
    (afterDraws (n + 1) s).index.val = (regenerate (afterDraws n s)).index.val + 1 :=
  advanceIndex_val _ (regenerate_index_lt _)

theorem regenerate_of_exhausted {s : State} (h : s.index.val = 624) :
    regenerate s = twistState s := by
  simp [regenerate, exhausted, h]

theorem regenerate_of_available {s : State} (h : s.index.val ≠ 624) : regenerate s = s := by
  simp [regenerate, exhausted, h]

/-! ### The draws from an exhausted block -/

/-- Before the read of draw t the block is the one twisted t / 624 + 1 times, at word t mod 624. -/
theorem regenerate_afterDraws {s : State} (start : s.index = 624) (t : Nat) :
    (regenerate (afterDraws t s)).W = twistPower (t / 624 + 1) s.W ∧
      (regenerate (afterDraws t s)).index.val = t % 624 := by
  induction t with
  | zero =>
    rw [afterDraws, regenerate_of_exhausted (by rw [start]; rfl)]
    exact ⟨rfl, rfl⟩
  | succ t ih =>
    obtain ⟨block, place⟩ := ih
    have next := afterDraws_succ_index t s
    rw [place] at next
    rw [← afterDraws_succ_W] at block
    by_cases ended : t % 624 + 1 = 624
    · rw [regenerate_of_exhausted (next.trans ended), twistState_W, twistState_index, block,
        show (t + 1) / 624 = t / 624 + 1 by omega, show (t + 1) % 624 = 0 by omega]
      exact ⟨rfl, rfl⟩
    · rw [regenerate_of_available (by omega), block, next,
        show (t + 1) / 624 = t / 624 by omega, show (t + 1) % 624 = t % 624 + 1 by omega]
      exact ⟨rfl, rfl⟩

theorem nthDraw_closed {s : State} (start : s.index = 624) (t : Nat) :
    nthDraw t s = temper (readW (twistPower (t / 624 + 1) s.W) (t % 624)) := by
  obtain ⟨block, place⟩ := regenerate_afterDraws start t
  rw [nthDraw_eq, block, place]

/-- Settles O45: `regenerate_afterDraws` gives the block and the word of every draw; the draw leaves
the block and goes on to the next word. -/
theorem drawSequenceFromAnExhaustedBlock : Obligations.DrawSequenceFromAnExhaustedBlock := by
  refine fun s start => ⟨nthDraw_closed start, fun d pos => ?_⟩
  obtain ⟨t, rfl⟩ := Nat.exists_eq_add_of_le' pos
  obtain ⟨block, place⟩ := regenerate_afterDraws start t
  rw [afterDraws_succ_index, afterDraws_succ_W, block, place, Nat.add_sub_cancel]
  exact ⟨rfl, rfl⟩

/-- A block's words are told by its draws, since tempering loses nothing. -/
theorem twist_eq_of_draws {s t : State} (hs : s.index = 624) (ht : t.index = 624)
    (same : ∀ n, n < 624 → nthDraw n s = nthDraw n t) : twist s.W = twist t.W := by
  refine words_ext fun k lt => temperIsInjective _ _ ?_
  have at_k := same k lt
  rw [nthDraw_closed hs, nthDraw_closed ht, Nat.div_eq_of_lt lt, Nat.mod_eq_of_lt lt] at at_k
  exact at_k

theorem twistPower_succ_congr {w v : Words} (same : twist w = twist v) (b : Nat) :
    twistPower (b + 1) w = twistPower (b + 1) v := by
  induction b with
  | zero => exact same
  | succ b ih => exact congrArg twist ih

/-- Settles O46: the block by `twist_eq_of_draws`; every draw reads that block or one twisted from
it. -/
theorem fullBlockOfDrawsDeterminesTheStream : Obligations.FullBlockOfDrawsDeterminesTheStream := by
  intro s t hs ht same
  have block := twist_eq_of_draws hs ht same
  refine ⟨block, fun n => ?_⟩
  rw [nthDraw_closed hs, nthDraw_closed ht, twistPower_succ_congr block]

/-! ### The extraction commands -/

/-- Up to a whole block of draws: within the block they leave `W`, past its end it is twisted
once. -/
theorem afterDraws_within_two_blocks (s : State) {d : Nat} (le : d ≤ 624) :
    (s.index.val + d ≤ 624 →
      (afterDraws d s).W = s.W ∧ (afterDraws d s).index.val = s.index.val + d) ∧
    (624 < s.index.val + d →
      (afterDraws d s).W = twist s.W ∧ (afterDraws d s).index.val = s.index.val + d - 624) := by
  have := s.index.isLt
  induction d with
  | zero => exact ⟨fun _ => ⟨rfl, rfl⟩, fun past => by omega⟩
  | succ d ih =>
    obtain ⟨within, past⟩ := ih (by omega)
    rw [afterDraws_succ_W, afterDraws_succ_index]
    rcases Nat.lt_trichotomy (s.index.val + d) 624 with lt | last | gt
    · obtain ⟨sameW, index⟩ := within (by omega)
      rw [regenerate_of_available (by omega), sameW, index]
      exact ⟨fun _ => ⟨rfl, rfl⟩, fun _ => by omega⟩
    · obtain ⟨sameW, index⟩ := within (by omega)
      rw [regenerate_of_exhausted (by omega), twistState_W, twistState_index, sameW]
      exact ⟨fun _ => by omega, fun _ => ⟨rfl, by simp; omega⟩⟩
    · obtain ⟨newW, index⟩ := past gt
      rw [regenerate_of_available (by omega), newW, index]
      exact ⟨fun _ => by omega, fun _ => ⟨rfl, by omega⟩⟩

/-- Seeded, an extraction command makes its draws and answers OK with its number of data words. -/
theorem exec_extraction_seeded {i : Instr} (hi : IsExtraction i) (s : State)
    (seeded : s.seeded = true) :
    ∃ data, exec i s = .next (respond .ok data (afterDraws (drawCount i) s)) ∧
      data.length = dataWordCount i := by
  rcases hi with rfl | rfl | rfl | rfl
  · exact ⟨_, by rw [exec_next32, whenSeeded_true _ s seeded]; rfl, rfl⟩
  · exact ⟨_, by rw [exec_nextr32, whenSeeded_true _ s seeded]; rfl, rfl⟩
  · exact ⟨_, by rw [exec_nextr53, whenSeeded_true _ s seeded]; rfl, rfl⟩
  · exact ⟨_, by rw [exec_nextuuid, whenSeeded_true _ s seeded]; rfl, rfl⟩

theorem drawCount_le (i : Instr) : drawCount i ≤ 624 := by
  cases i <;> simp [drawCount]

/-- Settles O44: the command is its draws and a response (`exec_extraction_seeded`); what the draws
do to `W` and `index` is `afterDraws_within_two_blocks`. -/
theorem extractionFrame : Obligations.ExtractionFrame := by
  intro i s hi seeded
  obtain ⟨data, runs, count⟩ := exec_extraction_seeded hi s seeded
  refine ⟨_, data, runs, ?_, count, afterDraws_within_two_blocks s (drawCount_le i)⟩
  rw [respond_ok_afterDraws, afterDraws_frame]

end Sys2Proof.Machine

/-! PROOFS for 10_state.md R25, R26 and R29, 30_encoding.md R70 to R76 and 70_reset_and_hazards.md
R220 and R229: what an instruction and a step do to the state, the invariant, and what nobody
observes. -/

namespace Sys2Proof.Machine

/-! ### What draws leave alone -/

@[simp] theorem afterDraws_seeded (n : Nat) (s : State) : (afterDraws n s).seeded = s.seeded := by
  rw [afterDraws_frame]
@[simp] theorem afterDraws_ent (n : Nat) (s : State) : (afterDraws n s).ent = s.ent := by
  rw [afterDraws_frame]
@[simp] theorem afterDraws_waiting (n : Nat) (s : State) :
    (afterDraws n s).waiting = s.waiting := by
  rw [afterDraws_frame]
@[simp] theorem afterDraws_entDrawn (n : Nat) (s : State) :
    (afterDraws n s).entDrawn = s.entDrawn := by
  rw [afterDraws_frame]

/-! ### A seeded engine is not degenerate -/

/-- Of two neighbours in `W[1..623]` the scalar path leaves one that is not zero. -/
theorem scalarInit_nondegenerate (w : Words) (seed : Word) : Nondegenerate (scalarInit w seed) := by
  by_cases zero : readW (scalarInit w seed) 1 = 0#32
  · exact .inr ⟨2, by decide, by decide,
      (scalarInit_filled w seed).ne_zero_of_prev (by decide) (by decide) zero⟩
  · exact .inr ⟨1, by decide, by decide, zero⟩

/-- The array path forces bit 31 of `W[0]`. -/
theorem arrayInit_nondegenerate (w : Words) (keys : List Word) :
    Nondegenerate (arrayInit w keys) := by
  left
  rw [arrayInit_word_zero]
  decide

/-! ### SEEDE without its words -/

theorem takeEntropy_eq_none_iff {e : Nat} {s : State} :
    takeEntropy e s = none ↔
      s.entDelivers = false ∧ (takenSoFar s).length + s.ent.length < e := by
  have starved_iff : entropyAtHand (e - (takenSoFar s).length) s = false ↔
      s.entDelivers = false ∧ (takenSoFar s).length + s.ent.length < e := by
    simp [entropyAtHand]
    omega
  rw [← starved_iff]
  rcases takeEntropy_cases e s with ⟨hand, taken⟩ | ⟨starved, nothing⟩
  · simp [hand, taken]
  · simp [starved, nothing]

theorem exec_seede_of_none {s : State} (nothing : takeEntropy Config.autoSeedWords s = none) :
    exec .seede s = .next (waitForEntropy s) := by
  rw [exec_seede, seedFromEntropy, nothing]

/-! ### What an instruction can do -/

/-- The next state of an instruction: an error answer and nothing else, or draws and their data, or
a seeding with words that are not degenerate (SEEDE taking its words first), or a SEEDE that
waits. -/
theorem exec_outcome {i : Instr} {s t : State} (h : exec i s = .next t) :
    (∃ st, st ≠ .ok ∧ t = raise st s) ∨
    (∃ data, IsExtraction i ∧ s.seeded = true ∧ data.length = dataWordCount i ∧
      t = respond .ok data (afterDraws (drawCount i) s)) ∨
    (∃ w, ¬ IsExtraction i ∧ Nondegenerate w ∧ t = respond .ok [] (commitSeed w s)) ∨
    (∃ w n, i = .seede ∧ Nondegenerate w ∧
      t = respond .ok [] (commitSeed w (consumeEntropy n { s with waiting := none }))) ∨
    (i = .seede ∧ s.entDelivers = false ∧
      (takenSoFar s).length + s.ent.length < Config.autoSeedWords ∧ t = waitForEntropy s) := by
  rcases exec_cases h with ⟨seed, rfl, rfl⟩ | ⟨rfl, rfl⟩ | ⟨k, ks, rfl, rfl⟩ |
    ⟨keys, u, rfl, taken, rfl⟩ | ⟨rfl, nothing, rfl⟩ | ⟨-, -, rfl⟩ | ⟨hi, seeded, rfl⟩ |
    ⟨rfl, seeded, rfl⟩ | ⟨rfl, seeded, rfl⟩
  · exact .inr (.inr (.inl ⟨_, by simp [IsExtraction], scalarInit_nondegenerate s.W seed, rfl⟩))
  · exact .inl ⟨.invalidArgument, by decide, rfl⟩
  · exact .inr (.inr (.inl ⟨_, by simp [IsExtraction], arrayInit_nondegenerate s.W _, rfl⟩))
  · rcases takeEntropy_cases Config.autoSeedWords s with ⟨-, given⟩ | ⟨-, nothing⟩
    · cases taken.symm.trans given
      exact .inr (.inr (.inr (.inl ⟨_, _, rfl, arrayInit_nondegenerate _ _, rfl⟩)))
    · cases taken.symm.trans nothing
  · obtain ⟨silent, short⟩ := takeEntropy_eq_none_iff.mp nothing
    exact .inr (.inr (.inr (.inr ⟨rfl, silent, short, rfl⟩)))
  · exact .inl ⟨.notSeeded, by decide, rfl⟩
  · rcases hi with rfl | rfl
    · exact .inr (.inl ⟨_, .inl rfl, seeded, rfl, rfl⟩)
    · exact .inr (.inl ⟨_, .inr (.inl rfl), seeded, rfl, rfl⟩)
  · exact .inr (.inl ⟨_, .inr (.inr (.inl rfl)), seeded, rfl, rfl⟩)
  · exact .inr (.inl ⟨_, .inr (.inr (.inr rfl)), seeded, rfl, rfl⟩)

@[simp] theorem statusWord_ok : statusWord .ok = 0x00000000#32 := rfl

/-- Settles O29: the case analysis of `exec_outcome`; draws, seedings and error answers leave ENT
alone. -/
theorem onlySeedeTakesEntropy : Obligations.OnlySeedeTakesEntropy := by
  intro i s t h other
  rcases exec_outcome h with ⟨st, -, rfl⟩ | ⟨data, -, -, -, rfl⟩ | ⟨w, -, -, rfl⟩ | ⟨w, n, rfl, -⟩ |
    ⟨rfl, -⟩
  · simp
  · simp
  · simp
  · exact absurd rfl other
  · exact absurd rfl other

/-- Settles O30: the case analysis of `exec_outcome`; a seeding command commits with the answer OK,
or leaves `W`, `index` and `seeded`. -/
theorem seedingFrame : Obligations.SeedingFrame := by
  intro i s t seeding h
  rcases exec_outcome h with ⟨st, -, rfl⟩ | ⟨data, hi, -⟩ | ⟨w, -, -, rfl⟩ |
    ⟨w, n, -, -, rfl⟩ | ⟨-, -, -, rfl⟩
  · simp
  · exact absurd hi seeding
  · simp
  · simp
  · simp

/-! ### What a step can do -/

/-- The next action takes at most something off REQ, and does not look at `W`. -/
theorem nextAction_frame (s : State) (w : Words) :
    (nextAction s).2 = { s with req := (nextAction s).2.req } ∧
      nextAction { s with W := w } = ((nextAction s).1, { (nextAction s).2 with W := w }) := by
  obtain ⟨_, _, _, req, _, _, _, waiting, _, _⟩ := s
  cases waiting <;> rcases req with _ | ⟨_ | _ | _, _⟩ <;> exact ⟨rfl, rfl⟩

/-- An abandoned packet is a reset, of an engine that may have taken words off ENT. -/
theorem abandonPacket_eq (p : Packet) (s : State) :
    ∃ n, abandonPacket p s = applyReset (consumeEntropy n s) := by
  have untouched : consumeEntropy 0 s = s := by simp [consumeEntropy]
  unfold abandonPacket
  split
  · exact ⟨_, rfl⟩
  · exact ⟨0, by rw [untouched]⟩

/-- Every case of a step: with something taken off REQ or nothing, the engine holds, is reset,
answers an error, or executes an instruction. -/
theorem step_cases {s t : State} (h : step s = .next t) :
    ∃ r, t = { s with req := r } ∨
      (∃ n, t = applyReset (consumeEntropy n { s with req := r })) ∨
      (∃ st, t = raise st { s with req := r }) ∨
      (∃ i, exec i { s with req := r } = .next t) := by
  obtain ⟨frame, -⟩ := nextAction_frame s s.W
  unfold step at h
  generalize nextAction s = next at h frame
  obtain ⟨action, u⟩ := next
  refine ⟨u.req, ?_⟩
  rw [← frame]
  cases action with
  | hold => cases h; exact .inl rfl
  | run i => exact .inr (.inr (.inr ⟨i, h⟩))
  | answer st => cases h; exact .inr (.inr (.inl ⟨st, rfl⟩))
  | enterReset => cases h; exact .inr (.inl ⟨0, by simp [consumeEntropy]⟩)
  | abandon p =>
    cases h
    exact .inr (.inl (abandonPacket_eq p u))

theorem step_answers_next (s : State) : ∃ t, step s = .next t := by
  unfold step
  split
  · exact ⟨_, rfl⟩
  · exact exec_answers_next _ _
  · exact ⟨_, rfl⟩
  · exact ⟨_, rfl⟩
  · exact ⟨_, rfl⟩

/-- Settles O13: every arm of a step ends in a next state, instructions by `exec_answers_next`. -/
theorem everyStepAnswersANextState : Obligations.EveryStepAnswersANextState := step_answers_next

/-- A SEEDE in progress is gone on with, whatever but a reset stands at the port. -/
theorem step_of_waiting {s : State} {taken : List Word} (waits : s.waiting = some taken)
    (noReset : ∀ rest, s.req ≠ .reset :: rest) : step s = exec .seede s := by
  have next : nextAction s = (.run .seede, s) := by
    rw [nextAction, waits]
    show resumeWaiting s = _
    unfold resumeWaiting
    split
    · next rest port => exact absurd port (noReset rest)
    · rfl
  rw [step, next]

/-- Settles O11: `step_of_decode_ok` and `step_of_waiting`. -/
theorem stepRunsTheDecodedInstruction : Obligations.StepRunsTheDecodedInstruction :=
  ⟨fun _ _ _ _ idle port dec => step_of_decode_ok idle port dec,
    fun _ _ waits noReset => step_of_waiting waits noReset⟩

/-! ### Waiting for entropy -/

/-- With no word offered, waiting on changes nothing. -/
theorem waitForEntropy_of_no_word {s : State} {taken : List Word} (waits : s.waiting = some taken)
    (noWord : s.ent = []) : waitForEntropy s = s := by
  rw [waitForEntropy, takenSoFar, waits, noWord, Option.getD_some, List.append_nil, ← waits,
    ← noWord]

/-- Settles O28: with too few words SEEDE waits (`takeEntropy_eq_none_iff`); a step then goes on
with it, and no word has come. -/
theorem seedeWaitsForEntropy : Obligations.SeedeWaitsForEntropy := by
  refine ⟨fun s silent short => exec_seede_of_none (takeEntropy_eq_none_iff.mpr ⟨silent, short⟩),
    fun s taken silent waits noWord short noReset => ?_⟩
  have nothing : takeEntropy Config.autoSeedWords s = none :=
    takeEntropy_eq_none_iff.mpr ⟨silent, by simpa [takenSoFar, waits, noWord] using short⟩
  rw [step_of_waiting waits noReset, exec_seede_of_none nothing,
    waitForEntropy_of_no_word waits noWord]

/-! ### One response -/

theorem statusWord_lt (st : Status) : (statusWord st).toNat < 256 := by
  cases st <;> decide

theorem dataWordCount_le (i : Instr) : dataWordCount i ≤ 4 := by
  cases i <;> simp [dataWordCount]

/-- Only the extraction commands give data. -/
theorem dataWordCount_of_not_extraction {i : Instr} (h : ¬ IsExtraction i) :
    dataWordCount i = 0 := by
  cases i <;> simp_all [IsExtraction, dataWordCount]

/-- Settles O10: a packet that does not decode is answered ILLEGAL_COMMAND; for one that does,
`exec_outcome` gives the response, or a SEEDE that waits. -/
theorem oneResponseForEachPacket : Obligations.OneResponseForEachPacket := by
  intro s p rest idle port
  cases dec : decode p with
  | error r =>
    refine ⟨_, step_of_decode_error idle port dec, .inr ⟨idle, .illegalCommand, [], rfl, ?_⟩⟩
    exact ⟨statusWord_lt _, Nat.zero_le 4, fun _ => rfl, nofun⟩
  | ok i =>
    obtain ⟨t, runs⟩ := exec_answers_next i { s with req := rest }
    refine ⟨t, (step_of_decode_ok idle port dec).trans runs, ?_⟩
    rcases exec_outcome runs with ⟨st, error, rfl⟩ | ⟨data, -, -, count, rfl⟩ | ⟨w, other, -, rfl⟩ |
      ⟨w, n, rfl, -, rfl⟩ | ⟨rfl, silent, short, rfl⟩
    · exact .inr ⟨idle, st, [], rfl, statusWord_lt st, Nat.zero_le 4, fun _ => rfl,
        fun ok => absurd ok error⟩
    · exact .inr ⟨by simpa using idle, .ok, data, by simp, statusWord_lt .ok,
        count.trans_le (dataWordCount_le i), fun no => absurd rfl no, fun _ => ⟨i, rfl, count⟩⟩
    · exact .inr ⟨idle, .ok, [], rfl, statusWord_lt .ok, Nat.zero_le 4, fun _ => rfl,
        fun _ => ⟨i, rfl, (dataWordCount_of_not_extraction other).symm⟩⟩
    · exact .inr ⟨rfl, .ok, [], rfl, statusWord_lt .ok, Nat.zero_le 4, fun _ => rfl,
        fun _ => ⟨.seede, rfl, rfl⟩⟩
    · refine .inl ⟨rfl, silent, ?_, nofun, rfl⟩
      simpa [takenSoFar, idle] using short

/-! ### Reset -/

theorem step_of_reset {s : State} {rest : List HostEvent} (port : s.req = .reset :: rest) :
    step s = .next (applyReset { s with req := rest }) := by
  have next : nextAction s = (.enterReset, { s with req := rest }) := by
    cases waits : s.waiting <;> simp [nextAction, waits, acceptNext, resumeWaiting, port]
  rw [step, next]

theorem step_of_resetDuring {s : State} {p : Packet} {rest : List HostEvent}
    (idle : s.waiting = none) (port : s.req = .resetDuring p :: rest) :
    step s = .next (abandonPacket p { s with req := rest }) := by
  simp [step, nextAction, idle, acceptNext, port]

theorem step_of_nothing {s : State} (idle : s.waiting = none) (port : s.req = []) :
    step s = .next s := by
  simp [step, nextAction, idle, acceptNext, port]

/-- Settles O12: the three steps without a command; in the middle of a packet's execution too it is
`applyReset` that ends it (`abandonPacket_eq`). -/
theorem resetAbandonsAndUnseeds : Obligations.ResetAbandonsAndUnseeds := by
  refine ⟨fun s rest port => ⟨_, step_of_reset port, rfl, rfl, rfl, rfl, rfl, rfl, rfl⟩,
    fun s p rest idle port => ⟨_, step_of_resetDuring idle port, ?_⟩,
    fun s idle port => step_of_nothing idle port⟩
  obtain ⟨n, same⟩ := abandonPacket_eq p { s with req := rest }
  rw [same]
  exact ⟨rfl, rfl, rfl, rfl, rfl, rfl⟩

/-- Settles O14: the reset state's own values. -/
theorem resetStateValues : Obligations.ResetStateValues :=
  ⟨reset_seeded, reset_index, reset_waiting⟩

/-! ### The invariant -/

/-- Settles O15: right after reset the engine is unseeded, nothing waits and nothing is answered. -/
theorem resetMeetsTheInvariant : Obligations.ResetMeetsTheInvariant where
  unseeded_index _ := reset_index
  seeded_nondegenerate seeded := absurd (reset_seeded.symm.trans seeded) (by decide)
  waiting_short _ waits := absurd (reset_waiting.symm.trans waits) (by simp)
  responses_ok r hr := absurd (reset_rsp ▸ hr) List.not_mem_nil

theorem responseOk_error (st : Status) : ResponseOk [statusWord st] := by
  cases st with
  | ok => exact .inl ⟨[], rfl, Nat.zero_le 4⟩
  | invalidArgument => exact .inr (.inl rfl)
  | illegalCommand => exact .inr (.inr (.inl rfl))
  | notSeeded => exact .inr (.inr (.inr rfl))

section Invariant
variable {s : State}

theorem Inv.respond (h : Inv s) {st : Status} {data : List Word}
    (ok : ResponseOk (statusWord st :: data)) : Inv (respond st data s) where
  unseeded_index := h.unseeded_index
  seeded_nondegenerate := h.seeded_nondegenerate
  waiting_short := h.waiting_short
  responses_ok r hr := by
    rcases List.mem_append.mp hr with old | new
    · exact h.responses_ok r old
    · rw [List.mem_singleton.mp new]
      exact ok

theorem Inv.raise (h : Inv s) (st : Status) : Inv (raise st s) := h.respond (responseOk_error st)

theorem Inv.commitSeed (h : Inv s) {w : Words} (ok : Nondegenerate w) : Inv (commitSeed w s) where
  unseeded_index _ := rfl
  seeded_nondegenerate _ := ok
  waiting_short := h.waiting_short
  responses_ok := h.responses_ok

/-- A draw leaves the words as they are or twists them, which keeps them nondegenerate. -/
theorem Inv.draw (h : Inv s) (seeded : s.seeded = true) : Inv (draw s).2 where
  unseeded_index no := absurd ((draw_seeded s).symm.trans no) (by simp [seeded])
  seeded_nondegenerate _ := by
    rcases draw_cases s with ⟨-, e⟩ | ⟨-, e⟩
    · rw [e, readAdvance_W, twistState_W, twistKeepsNondegeneracy]
      exact h.seeded_nondegenerate seeded
    · rw [e, readAdvance_W]
      exact h.seeded_nondegenerate seeded
  waiting_short taken waits := h.waiting_short taken (draw_waiting s ▸ waits)
  responses_ok r hr := h.responses_ok r (draw_rsp s ▸ hr)

theorem Inv.afterDraws (h : Inv s) (seeded : s.seeded = true) (n : Nat) : Inv (afterDraws n s) := by
  induction n with
  | zero => exact h
  | succ n ih => exact ih.draw ((afterDraws_seeded n s).trans seeded)

/-- A SEEDE that gets its words is no longer in progress. -/
theorem Inv.takeEntropy (h : Inv s) (n : Nat) :
    Inv (consumeEntropy n { s with waiting := none }) where
  unseeded_index := h.unseeded_index
  seeded_nondegenerate := h.seeded_nondegenerate
  waiting_short _ waits := nomatch waits
  responses_ok := h.responses_ok

theorem Inv.waitForEntropy (h : Inv s)
    (short : (takenSoFar s).length + s.ent.length < Config.autoSeedWords) :
    Inv (waitForEntropy s) where
  unseeded_index := h.unseeded_index
  seeded_nondegenerate := h.seeded_nondegenerate
  waiting_short taken waits := by
    rw [← Option.some.inj waits, List.length_append]
    exact short
  responses_ok := h.responses_ok

theorem Inv.applyReset (h : Inv s) (n : Nat) : Inv (applyReset (consumeEntropy n s)) where
  unseeded_index _ := rfl
  seeded_nondegenerate seeded := nomatch seeded
  waiting_short _ waits := nomatch waits
  responses_ok := h.responses_ok

theorem Inv.withReq (h : Inv s) (r : List HostEvent) : Inv { s with req := r } where
  unseeded_index := h.unseeded_index
  seeded_nondegenerate := h.seeded_nondegenerate
  waiting_short := h.waiting_short
  responses_ok := h.responses_ok

/-- Every instruction keeps the invariant. -/
theorem Inv.exec (h : Inv s) {i : Instr} {t : State} (runs : exec i s = .next t) : Inv t := by
  rcases exec_outcome runs with ⟨st, -, rfl⟩ | ⟨data, -, seeded, count, rfl⟩ | ⟨w, -, ok, rfl⟩ |
    ⟨w, n, -, ok, rfl⟩ | ⟨-, -, short, rfl⟩
  · exact h.raise st
  · exact (h.afterDraws seeded _).respond
      (.inl ⟨data, rfl, count.trans_le (dataWordCount_le i)⟩)
  · exact (h.commitSeed ok).respond (responseOk_error .ok)
  · exact ((h.takeEntropy n).commitSeed ok).respond (responseOk_error .ok)
  · exact h.waitForEntropy short

end Invariant

/-- Settles O16: each case of a step keeps the invariant, instructions by `Inv.exec`, which rests on
the twist keeping nondegeneracy. -/
theorem stepKeepsTheInvariant : Obligations.StepKeepsTheInvariant := by
  intro s t h steps
  obtain ⟨r, rfl | ⟨n, rfl⟩ | ⟨st, rfl⟩ | ⟨i, runs⟩⟩ := step_cases steps
  · exact h.withReq r
  · exact (h.withReq r).applyReset n
  · exact (h.withReq r).raise st
  · exact (h.withReq r).exec runs

/-! ### The state vector of an unseeded engine -/

/-- The two states agree in every field but `W`, and in `W` too if they are seeded. -/
def AgreeUntilSeeded (t u : State) : Prop :=
  { u with W := t.W } = t ∧ (t.seeded = true → u.W = t.W)

theorem AgreeUntilSeeded.refl (t : State) : AgreeUntilSeeded t t := ⟨rfl, fun _ => rfl⟩

theorem agreeUntilSeeded_of_unseeded {t : State} (unseeded : t.seeded = false) (w : Words) :
    AgreeUntilSeeded t { t with W := w } :=
  ⟨rfl, fun seeded => absurd (unseeded.symm.trans seeded) (by decide)⟩

/-- A seeding writes all of `W`, and nothing else an instruction does on an unseeded engine touches
`W` or depends on it. -/
theorem exec_unseeded_agree (i : Instr) {s : State} (w : Words) (unseeded : s.seeded = false) :
    ∃ t u, exec i s = .next t ∧ exec i { s with W := w } = .next u ∧ AgreeUntilSeeded t u := by
  have forgets {t : State} (runs : exec i s = .next t)
      (same : exec i { s with W := w } = exec i s) : ∃ t u, exec i s = .next t ∧
        exec i { s with W := w } = .next u ∧ AgreeUntilSeeded t u :=
    ⟨t, t, runs, same.trans runs, AgreeUntilSeeded.refl t⟩
  by_cases hi : IsExtraction i
  · exact ⟨_, _, exec_extraction_unseeded hi s unseeded,
      exec_extraction_unseeded hi { s with W := w } unseeded,
      agreeUntilSeeded_of_unseeded (t := raise .notSeeded s) unseeded w⟩
  · cases i with
    | seeds seed => exact forgets rfl (exec_seeds_forgets s w s.index s.seeded seed)
    | seeda keys =>
      cases keys with
      | nil => exact ⟨_, _, exec_seeda_nil s, exec_seeda_nil _,
          agreeUntilSeeded_of_unseeded (t := raise .invalidArgument s) unseeded w⟩
      | cons k ks =>
        exact forgets rfl
          (congrArg Host.Outcome.next (seedFromKeys_forgets s w s.index s.seeded (k :: ks)))
    | seede =>
      cases taken : takeEntropy Config.autoSeedWords s with
      | some given => exact forgets rfl (exec_seede_forgets s w s.index s.seeded taken)
      | none =>
        have too : takeEntropy Config.autoSeedWords { s with W := w } = none := by
          rw [takeEntropy_with s w s.index s.seeded, taken]
          rfl
        exact ⟨_, _, exec_seede_of_none taken, exec_seede_of_none too,
          agreeUntilSeeded_of_unseeded (t := waitForEntropy s) unseeded w⟩
    | _ => exact absurd (by simp [IsExtraction]) hi

/-- An abandoned packet's words are gone with the reset. -/
theorem abandonPacket_forgets (p : Packet) (s : State) (w : Words) :
    abandonPacket p { s with W := w } = abandonPacket p s := by
  unfold abandonPacket
  split <;> rfl

/-- Settles O17: the two engines take the same action (`nextAction_frame`); each action leaves them
agreeing, instructions by `exec_unseeded_agree`. -/
theorem unseededStateVectorIsNeverObserved : Obligations.UnseededStateVectorIsNeverObserved := by
  intro s w unseeded
  obtain ⟨frame, sameAction⟩ := nextAction_frame s w
  unfold step
  rw [sameAction]
  generalize nextAction s = next at frame
  obtain ⟨action, u⟩ := next
  have still : u.seeded = false := (congrArg State.seeded frame).trans unseeded
  cases action with
  | hold => exact ⟨u, _, rfl, rfl, agreeUntilSeeded_of_unseeded still w⟩
  | run i => exact exec_unseeded_agree i w still
  | answer st =>
    exact ⟨_, _, rfl, rfl, agreeUntilSeeded_of_unseeded (t := raise st u) still w⟩
  | enterReset => exact ⟨_, _, rfl, rfl, AgreeUntilSeeded.refl (applyReset u)⟩
  | abandon p =>
    refine ⟨_, _, rfl, rfl, ?_⟩
    rw [abandonPacket_forgets]
    exact AgreeUntilSeeded.refl _

end Sys2Proof.Machine

/-! PROOFS for the model's choice where 30_encoding.md R74 leaves it open: a program of assembler
lines at the ports. -/

namespace Sys2Proof.Machine

/-- What one line adds at the ports. -/
theorem enqueueLine_eq (s : State) (l : AsmLine) :
    enqueueLine s l = { s with req := s.req ++ lineEvents l, ent := s.ent ++ lineEntropy l } := by
  cases l with
  | reset => simp [enqueueLine, lineEvents, lineEntropy]
  | entropy es => simp [lineEvents, lineEntropy, assemble]
  | seeda keys =>
    by_cases fits : keys.length ≤ keyLenMax <;>
      simp [enqueueLine, lineEvents, lineEntropy, assemble, fits]
  | _ => simp [enqueueLine, lineEvents, lineEntropy, assemble]

/-- Settles O47: line by line, each adding what `enqueueLine_eq` says. -/
theorem programStandsAtThePortsInOrder : Obligations.ProgramStandsAtThePortsInOrder := by
  refine ⟨enqueueLine_entropy, fun s lines => ?_⟩
  induction lines generalizing s with
  | nil => simp [enqueue]
  | cons l ls ih =>
    have first : enqueue s (l :: ls) = enqueue (enqueueLine s l) ls := rfl
    rw [first, ih, enqueueLine_eq]
    simp

end Sys2Proof.Machine
